-- ==== Sys2Proof/Word.lean ====
section
/-! DEFINITION. The byte and word types, and the two closed enumerations of the wire format: the check
algorithms and the packet kinds. -/

namespace Sys2Proof

/-- A byte, an unsigned 8-bit value (00_scope.md R25). -/
abbrev Byte := BitVec 8

/-- A 32-bit value: `CHECK_OUT` and the numeric operand ports (10_state.md R41, 30_encoding.md R121). -/
abbrev Word := BitVec 32

/-- The check algorithms, ordinals 0 to 5 (30_encoding.md R93, 40_checksum.md R140). -/
inductive Alg where
  | none
  | xor8
  | checksum16
  | lrc16
  | fletcher16
  | crc16
  deriving DecidableEq, Repr, Inhabited

/-- The packet kinds that travel on the wire (30_encoding.md R92). -/
inductive Kind where
  | request
  | response
  | interrupt
  | commError
  deriving DecidableEq, Repr

end Sys2Proof
end

