-- ==== Sys2Proof/Config.lean ====
section
/-! DEFINITION. The implementation parameters of 00_scope.md section 5 (every point the source leaves open
that changes an observable value), the values this spec decides, and the free values, which have no body. -/

namespace Sys2Proof

/-- `P_FIELD_OVERFLOW` (00_scope.md R10). -/
inductive FieldOverflow where
  | truncate
  | saturate
  deriving DecidableEq, Repr

/-- `P_CS16_COMPARE` (00_scope.md R11). -/
inductive Cs16Compare where
  | masked16
  | full
  deriving DecidableEq, Repr

/-- `P_TICK_SCOPE` (00_scope.md R13). -/
inductive TickScope where
  | perWait
  | perReceive
  deriving DecidableEq, Repr

/-- `P_TERM_RULE` (00_scope.md R17). -/
inductive TermRule where
  | crOrLf
  | eitherByteCrOrLf
  deriving DecidableEq, Repr

/-- The named parameters of 00_scope.md R10 to R24, one field each. The model carries them in the state, where
no step writes them, so that a statement about every state is a statement about every choice (log entry 1,
DESIGN CHOICE, safe). -/
structure Params where
  /-- `P_FIELD_OVERFLOW` (R10). -/
  fieldOverflow : FieldOverflow
  /-- `P_CS16_COMPARE` (R11). -/
  cs16Compare : Cs16Compare
  /-- `P_READ_TIMEOUT` (R12), OPEN. -/
  readTimeout : Nat
  /-- `P_TICK_SCOPE` (R13). -/
  tickScope : TickScope
  /-- `P_LRC16_SIGNED` (R14). -/
  lrc16Signed : Bool
  /-- `P_FLETCHER16_SIGNED` (R14). -/
  fletcher16Signed : Bool
  /-- `P_CRC16_FINAL_SWAP` (R15). -/
  crc16FinalSwap : Bool
  /-- `P_HEX_LOWER_OK` (R16). -/
  hexLowerOk : Bool
  /-- `P_TERM_RULE` (R17). -/
  termRule : TermRule
  /-- `P_SIPCEP_TERM_CHECK` (R18). -/
  sipcepTermCheck : Bool
  /-- `P_NONE_CHECK_PARSE` (R19). -/
  noneCheckParse : Bool
  /-- `P_CHAN_READ_FULL` (R20). -/
  chanReadFull : Bool
  /-- `P_DIAG_CAUSE` (R21). -/
  hasDiagCause : Bool
  /-- `P_ADAPTER_ECA` (R22), OPEN. -/
  adapterEca : Alg
  /-- `P_RTO_WIDTH` (R23), OPEN. -/
  rtoWidth : Nat
  /-- `P_TICK_WIDTH` (R24), OPEN beyond its bound. -/
  tickWidth : Nat
  deriving DecidableEq, Repr

/-- `P_MSGMAXSIZE` (00_scope.md R9). -/
def Config.msgMaxSize : Nat := 4096

/-- The size of the frame buffer `FB` and the bound on `DBUF` (10_state.md R33, 20_memory.md R76). -/
def Config.frameMax : Nat := 4110

/-- `P_RTO_WIDTH`: OPEN (00_scope.md R23; log entry 2). -/
opaque Config.rtoWidth : Nat

/-- The number `P_READ_TIMEOUT` is taken from: OPEN (00_scope.md R12; log entry 2). -/
opaque Config.readTimeoutChoice : Nat

/-- How far `P_TICK_WIDTH` exceeds its bound: OPEN (00_scope.md R24; log entry 2). -/
opaque Config.tickWidthExtra : Nat

/-- `P_ADAPTER_ECA`: OPEN (00_scope.md R22; log entry 2). -/
opaque Config.adapterEca : Alg

/-- The channel's draws that no tape fixes: the answer of `open()`, the content of `RX` after a close or a
reset, the count of a short read (93_implementation_defined.md U7, U8, U9; log entry 7). -/
opaque Config.freeDraw : Nat → Nat

/-- The bytes an unpredicted channel supplies before a codec step, by the count of draws (20_memory.md R63 bounds
neither their number nor their values; log entry 28). -/
opaque Config.freeArrival : Nat → List Byte

/-- What `CFG_RTO` holds after a write of a value too wide for it, by the register's width and that value: the spec
states no result (10_state.md R39; log entry 14). -/
opaque Config.wideRtoValue : Nat → Nat → Nat

/-- Signed Fletcher16 of a string with a byte of 0x80 or above: no source gives its arithmetic
(40_checksum.md R148; log entry 8). Sixteen bits, because only Checksum16 leaves 0..65535 (10_state.md R41). -/
opaque Config.fletcher16SignedValue : List Byte → BitVec 16

/-- The parameters with the values this spec decides (00_scope.md R10 to R21), and the OPEN ones free.
`P_READ_TIMEOUT` fits `P_RTO_WIDTH` bits, and `P_TICK_WIDTH` bits hold every `CFG_RTO + 1` (R24). -/
def Config.decided : Params where
  fieldOverflow := .truncate
  cs16Compare := .masked16
  readTimeout := Config.readTimeoutChoice % 2 ^ Config.rtoWidth
  tickScope := .perWait
  lrc16Signed := false
  fletcher16Signed := false
  crc16FinalSwap := false
  hexLowerOk := true
  termRule := .crOrLf
  sipcepTermCheck := false
  noneCheckParse := true
  chanReadFull := true
  hasDiagCause := true
  adapterEca := Config.adapterEca
  rtoWidth := Config.rtoWidth
  tickWidth := Config.rtoWidth + 1 + Config.tickWidthExtra

/-- A legal choice of parameters: the widths hold what R12, R23 and R24 of 00_scope.md ask of them. -/
def Params.wf (p : Params) : Bool :=
  decide (p.readTimeout < 2 ^ p.rtoWidth) && decide (p.rtoWidth < p.tickWidth)

end Sys2Proof
end

