-- ==== Sys2Proof/Syntax.lean ====
section
/-! DEFINITION. The instructions: one constructor for each row of spec/opcode_table.json (eight host commands,
thirteen reserved command words, eleven wire bytes), and the role adapters' calls. -/

namespace Sys2Proof

/-- The operand ports presented with a command word (30_encoding.md R121). -/
structure Ports where
  /-- `DEV_IN`. -/
  devIn : Word
  /-- `LREQ_IN`. -/
  lreqIn : Word
  /-- `CODE_IN`. -/
  codeIn : Word
  /-- `PBUF` (20_memory.md R75). -/
  pbuf : List Byte
  /-- `DBUF` (20_memory.md R76). -/
  dbuf : List Byte
  /-- `N_IN` (20_memory.md R76). -/
  nIn : Nat
  deriving DecidableEq, Repr

/-- All ports zero or empty. -/
def Ports.zero : Ports := ⟨0, 0, 0, [], [], 0⟩

/-- An instruction: a host command with the operands it names, a reserved command word with the bits its row
leaves free, or a wire byte with a meaning of its own. -/
inductive Instr where
  /-- `ENC_REQ` (41_encoder.md R183). -/
  | encReq (alg : Alg) (dev lreq : Word) (pbuf : List Byte)
  /-- `ENC_RSP` (41_encoder.md R184). -/
  | encRsp (alg : Alg) (dev lreq : Word) (pbuf : List Byte)
  /-- `ENC_SIP` (41_encoder.md R185). -/
  | encSip (alg : Alg) (dev code : Word)
  /-- `ENC_CEP` (41_encoder.md R186). -/
  | encCep (alg : Alg) (dev code : Word)
  /-- `DEC_RECV` (42_decoder.md R220). -/
  | decRecv
  /-- `CHK_COMPUTE` (43_host_ops.md R282). -/
  | chkCompute (alg : Alg) (dbuf : List Byte) (n : Nat)
  /-- `CHAN_OPEN_CMD` (43_host_ops.md R280). -/
  | chanOpenCmd
  /-- `CHAN_CLOSE_CMD` (43_host_ops.md R281). -/
  | chanCloseCmd
  /-- `RESERVED_OP_0x0` with bits 7:4 (30_encoding.md R122). -/
  | reservedOp0 (hi : BitVec 4)
  /-- `RESERVED_OP_0x9` with bits 7:4. -/
  | reservedOp9 (hi : BitVec 4)
  /-- `RESERVED_OP_0xA` with bits 7:4. -/
  | reservedOpA (hi : BitVec 4)
  /-- `RESERVED_OP_0xB` with bits 7:4. -/
  | reservedOpB (hi : BitVec 4)
  /-- `RESERVED_OP_0xC` with bits 7:4. -/
  | reservedOpC (hi : BitVec 4)
  /-- `RESERVED_OP_0xD` with bits 7:4. -/
  | reservedOpD (hi : BitVec 4)
  /-- `RESERVED_OP_0xE` with bits 7:4. -/
  | reservedOpE (hi : BitVec 4)
  /-- `RESERVED_OP_0xF` with bits 7:4. -/
  | reservedOpF (hi : BitVec 4)
  /-- `RESERVED_BIT7` with bits 6:0. -/
  | reservedBit7 (low : BitVec 7)
  /-- `RESERVED_ALG_6_7` with bits 4:0. -/
  | reservedAlg67 (low : BitVec 5)
  /-- `RESERVED_DEC_RECV_ALG_NONZERO` with its `ALG`. -/
  | reservedDecRecvAlg (alg : BitVec 3)
  /-- `RESERVED_CHAN_OPEN_CMD_ALG_NONZERO` with its `ALG`. -/
  | reservedChanOpenAlg (alg : BitVec 3)
  /-- `RESERVED_CHAN_CLOSE_CMD_ALG_NONZERO` with its `ALG`. -/
  | reservedChanCloseAlg (alg : BitVec 3)
  /-- `WIRE_KIND_REQUEST`, `'?'` at byte 1 of a frame (30_encoding.md R92). -/
  | wireKindRequest
  /-- `WIRE_KIND_RESPONSE`, `'#'` at byte 1. -/
  | wireKindResponse
  /-- `WIRE_KIND_INTERRUPT`, `'!'` at byte 1. -/
  | wireKindInterrupt
  /-- `WIRE_KIND_COMMERROR`, `'~'` at byte 1. -/
  | wireKindCommError
  /-- `WIRE_ECA_NONE`, `'0'` at byte 2 of a frame (30_encoding.md R93). -/
  | wireEcaNone
  /-- `WIRE_ECA_XOR8`, `'1'` at byte 2. -/
  | wireEcaXor8
  /-- `WIRE_ECA_CHECKSUM16`, `'2'` at byte 2. -/
  | wireEcaChecksum16
  /-- `WIRE_ECA_LRC16`, `'3'` at byte 2. -/
  | wireEcaLrc16
  /-- `WIRE_ECA_FLETCHER16`, `'4'` at byte 2. -/
  | wireEcaFletcher16
  /-- `WIRE_ECA_CRC16`, `'5'` at byte 2. -/
  | wireEcaCrc16
  /-- `WIRE_SENTINEL`, `'!'` at byte 0 of a frame (30_encoding.md R91). -/
  | wireSentinel
  deriving DecidableEq, Repr

/-- The role adapters' calls (43_host_ops.md R284 to R289). -/
inductive AdapterCall where
  /-- `send_request(device_id, payload)` (R284). -/
  | sendRequest (dev : Word) (payload : List Byte)
  /-- `send_response(device_id, payload)` (R285). -/
  | sendResponse (dev : Word) (payload : List Byte)
  /-- `send_interrupt(device_id, code)` (R286). -/
  | sendInterrupt (dev code : Word)
  /-- `send_error(device_id, code)` (R287). -/
  | sendError (dev code : Word)
  /-- `receive()` (R288). -/
  | receive
  /-- `begin()` (R289). -/
  | beginChannel
  deriving DecidableEq, Repr

end Sys2Proof
end

