-- ==== Sys2Proof/WellFormed.lean ====
section
/-! DEFINITION. Which instructions are well formed: operands within the bounds of their ports, and a reserved
word only under the row the decoder gives it. -/

namespace Sys2Proof

/-- Bits 7:4 of a word that only its `OP` makes reserved: bit 7 is 0 and `ALG` is 0..5 (30_encoding.md R122). -/
def reservedHiOk (hi : BitVec 4) : Bool := decide (hi.toNat < 6)

/-- The `ALG` of a word that only a nonzero `ALG` makes reserved: 1..5 (30_encoding.md R122). -/
def reservedAlgOk (alg : BitVec 3) : Bool := decide (0 < alg.toNat) && decide (alg.toNat < 6)

/-- The well-formedness check: one arm for each instruction. -/
def Instr.wf : Instr → Bool
  | .encReq _ _ _ pbuf => decide (pbuf.length ≤ Config.msgMaxSize)
  | .encRsp _ _ _ pbuf => decide (pbuf.length ≤ Config.msgMaxSize)
  | .encSip _ _ _ => true
  | .encCep _ _ _ => true
  | .decRecv => true
  | .chkCompute _ dbuf n => decide (dbuf.length ≤ Config.frameMax) && decide (n ≤ dbuf.length)
  | .chanOpenCmd => true
  | .chanCloseCmd => true
  | .reservedOp0 hi => reservedHiOk hi
  | .reservedOp9 hi => reservedHiOk hi
  | .reservedOpA hi => reservedHiOk hi
  | .reservedOpB hi => reservedHiOk hi
  | .reservedOpC hi => reservedHiOk hi
  | .reservedOpD hi => reservedHiOk hi
  | .reservedOpE hi => reservedHiOk hi
  | .reservedOpF hi => reservedHiOk hi
  | .reservedBit7 _ => true
  | .reservedAlg67 _ => true
  | .reservedDecRecvAlg alg => reservedAlgOk alg
  | .reservedChanOpenAlg alg => reservedAlgOk alg
  | .reservedChanCloseAlg alg => reservedAlgOk alg
  | .wireKindRequest => true
  | .wireKindResponse => true
  | .wireKindInterrupt => true
  | .wireKindCommError => true
  | .wireEcaNone => true
  | .wireEcaXor8 => true
  | .wireEcaChecksum16 => true
  | .wireEcaLrc16 => true
  | .wireEcaFletcher16 => true
  | .wireEcaCrc16 => true
  | .wireSentinel => true

/-- Does the instruction stand for a host command the block accepts (30_encoding.md R122)? -/
def Instr.isCommand : Instr → Bool
  | .encReq _ _ _ _ => true
  | .encRsp _ _ _ _ => true
  | .encSip _ _ _ => true
  | .encCep _ _ _ => true
  | .decRecv => true
  | .chkCompute _ _ _ => true
  | .chanOpenCmd => true
  | .chanCloseCmd => true
  | .reservedOp0 _ => false
  | .reservedOp9 _ => false
  | .reservedOpA _ => false
  | .reservedOpB _ => false
  | .reservedOpC _ => false
  | .reservedOpD _ => false
  | .reservedOpE _ => false
  | .reservedOpF _ => false
  | .reservedBit7 _ => false
  | .reservedAlg67 _ => false
  | .reservedDecRecvAlg _ => false
  | .reservedChanOpenAlg _ => false
  | .reservedChanCloseAlg _ => false
  | .wireKindRequest => false
  | .wireKindResponse => false
  | .wireKindInterrupt => false
  | .wireKindCommError => false
  | .wireEcaNone => false
  | .wireEcaXor8 => false
  | .wireEcaChecksum16 => false
  | .wireEcaLrc16 => false
  | .wireEcaFletcher16 => false
  | .wireEcaCrc16 => false
  | .wireSentinel => false

end Sys2Proof
end

