-- ==== Sys2Proof/Decode.lean ====
section
/-! DEFINITION. The decoder and the encoder of instructions: the host command word (30_encoding.md section 6)
and the wire bytes with a meaning (30_encoding.md sections 1 and 2), and the role adapters' expansions. -/

namespace Sys2Proof

/-- The ordinal of a check algorithm (30_encoding.md R93). -/
def algOrdinal : Alg → BitVec 3
  | .none => 0
  | .xor8 => 1
  | .checksum16 => 2
  | .lrc16 => 3
  | .fletcher16 => 4
  | .crc16 => 5

/-- The check algorithm of an ordinal; 6 and 7 are none (30_encoding.md R122). -/
def algOfOrdinal (v : BitVec 3) : Option Alg :=
  match v.toNat with
  | 0 => some .none
  | 1 => some .xor8
  | 2 => some .checksum16
  | 3 => some .lrc16
  | 4 => some .fletcher16
  | 5 => some .crc16
  | _ => none

/-- The sentinel `'!'` (30_encoding.md R90, R91). -/
def sentinelByte : Byte := 0x21

/-- The kind character of a packet kind (30_encoding.md R92). -/
def kindChar : Kind → Byte
  | .request => 0x3F
  | .response => 0x23
  | .interrupt => 0x21
  | .commError => 0x7E

/-- The packet kind of a kind character; no other byte is a kind (30_encoding.md R92). -/
def kindOfChar (c : Byte) : Option Kind :=
  if c = 0x3F then some .request
  else if c = 0x23 then some .response
  else if c = 0x21 then some .interrupt
  else if c = 0x7E then some .commError
  else none

/-- The ECA digit of a check algorithm (30_encoding.md R93). -/
def ecaChar (a : Alg) : Byte := 0x30 + (algOrdinal a).setWidth 8

/-- The check algorithm of an ECA digit: valid exactly for 0x30 to 0x35 (30_encoding.md R103). -/
def ecaOfChar (c : Byte) : Option Alg :=
  if 0x30 ≤ c.toNat ∧ c.toNat ≤ 0x35 then algOfOrdinal (BitVec.ofNat 3 (c.toNat - 0x30)) else none

/-- The wire byte that stands for a packet kind, as an instruction. -/
def wireKind : Kind → Instr
  | .request => .wireKindRequest
  | .response => .wireKindResponse
  | .interrupt => .wireKindInterrupt
  | .commError => .wireKindCommError

/-- The wire byte that stands for a check algorithm, as an instruction. -/
def wireEca : Alg → Instr
  | .none => .wireEcaNone
  | .xor8 => .wireEcaXor8
  | .checksum16 => .wireEcaChecksum16
  | .lrc16 => .wireEcaLrc16
  | .fletcher16 => .wireEcaFletcher16
  | .crc16 => .wireEcaCrc16

/-- Where the block reads a byte that stands for an instruction: the host's command word, or byte 0, 1 or 2 of
a frame. The same byte means different things there, so the place is part of the encoding (log entry 12). -/
inductive Slot where
  | command
  | frameByte0
  | frameByte1
  | frameByte2
  deriving DecidableEq, Repr

/-- Why a wire byte stands for no instruction at its place (30_encoding.md R108). -/
inductive DecodeReject where
  /-- Byte 0 is not the sentinel: the scan drops it (42_decoder.md R230). -/
  | notSentinel
  /-- Byte 1 is no kind character (30_encoding.md R108 item 1). -/
  | badKind
  /-- Byte 2 is outside `'0'` to `'5'` (30_encoding.md R108 item 2). -/
  | badEca
  deriving DecidableEq, Repr

/-- Command decode (30_encoding.md R120, R122), total: every word is one of the eight commands or falls under a
reserved row. Where two reserved rows match, bit 7 comes first, then `ALG` 6 or 7, then `OP` (log entry 13). -/
def decodeCommand (w : Byte) (p : Ports) : Instr :=
  let alg : BitVec 3 := w.extractLsb' 4 3
  let hi : BitVec 4 := w.extractLsb' 4 4
  if w.getLsbD 7 then .reservedBit7 (w.extractLsb' 0 7)
  else match algOfOrdinal alg with
    | none => .reservedAlg67 (w.extractLsb' 0 5)
    | some a =>
      match (w.extractLsb' 0 4).toNat with
      | 0 => .reservedOp0 hi
      | 1 => .encReq a p.devIn p.lreqIn p.pbuf
      | 2 => .encRsp a p.devIn p.lreqIn p.pbuf
      | 3 => .encSip a p.devIn p.codeIn
      | 4 => .encCep a p.devIn p.codeIn
      | 5 => if alg = 0 then .decRecv else .reservedDecRecvAlg alg
      | 6 => .chkCompute a p.dbuf p.nIn
      | 7 => if alg = 0 then .chanOpenCmd else .reservedChanOpenAlg alg
      | 8 => if alg = 0 then .chanCloseCmd else .reservedChanCloseAlg alg
      | 9 => .reservedOp9 hi
      | 10 => .reservedOpA hi
      | 11 => .reservedOpB hi
      | 12 => .reservedOpC hi
      | 13 => .reservedOpD hi
      | 14 => .reservedOpE hi
      | _ => .reservedOpF hi

/-- The decoder of instructions, total on every byte at every place, rejecting by name. -/
def decode (slot : Slot) (b : Byte) (p : Ports) : Except DecodeReject Instr :=
  match slot with
  | .command => .ok (decodeCommand b p)
  | .frameByte0 => if b = sentinelByte then .ok .wireSentinel else .error .notSentinel
  | .frameByte1 =>
    match kindOfChar b with
    | some k => .ok (wireKind k)
    | none => .error .badKind
  | .frameByte2 =>
    match ecaOfChar b with
    | some a => .ok (wireEca a)
    | none => .error .badEca

/-- An encoded instruction: its byte, the place the byte stands, and the operand ports beside it. -/
structure Encoded where
  slot : Slot
  byte : Byte
  ports : Ports
  deriving DecidableEq, Repr

/-- A command word from its fields: bit 7 is 0, bits 6:4 `ALG`, bits 3:0 `OP` (30_encoding.md R120). -/
def commandWord (op : BitVec 4) (alg : BitVec 3) : Byte := 0#1 ++ alg ++ op

/-- The encoder: the byte and the ports of an instruction, from 30_encoding.md R92, R93, R120 and the opcode
table. Ports the instruction does not name are zero. -/
def encode : Instr → Encoded
  | .encReq a dev lreq pbuf =>
    ⟨.command, commandWord 0x1 (algOrdinal a), { Ports.zero with devIn := dev, lreqIn := lreq, pbuf := pbuf }⟩
  | .encRsp a dev lreq pbuf =>
    ⟨.command, commandWord 0x2 (algOrdinal a), { Ports.zero with devIn := dev, lreqIn := lreq, pbuf := pbuf }⟩
  | .encSip a dev code =>
    ⟨.command, commandWord 0x3 (algOrdinal a), { Ports.zero with devIn := dev, codeIn := code }⟩
  | .encCep a dev code =>
    ⟨.command, commandWord 0x4 (algOrdinal a), { Ports.zero with devIn := dev, codeIn := code }⟩
  | .decRecv => ⟨.command, commandWord 0x5 0, Ports.zero⟩
  | .chkCompute a dbuf n =>
    ⟨.command, commandWord 0x6 (algOrdinal a), { Ports.zero with dbuf := dbuf, nIn := n }⟩
  | .chanOpenCmd => ⟨.command, commandWord 0x7 0, Ports.zero⟩
  | .chanCloseCmd => ⟨.command, commandWord 0x8 0, Ports.zero⟩
  | .reservedOp0 hi => ⟨.command, hi ++ 0x0#4, Ports.zero⟩
  | .reservedOp9 hi => ⟨.command, hi ++ 0x9#4, Ports.zero⟩
  | .reservedOpA hi => ⟨.command, hi ++ 0xA#4, Ports.zero⟩
  | .reservedOpB hi => ⟨.command, hi ++ 0xB#4, Ports.zero⟩
  | .reservedOpC hi => ⟨.command, hi ++ 0xC#4, Ports.zero⟩
  | .reservedOpD hi => ⟨.command, hi ++ 0xD#4, Ports.zero⟩
  | .reservedOpE hi => ⟨.command, hi ++ 0xE#4, Ports.zero⟩
  | .reservedOpF hi => ⟨.command, hi ++ 0xF#4, Ports.zero⟩
  | .reservedBit7 low => ⟨.command, 1#1 ++ low, Ports.zero⟩
  | .reservedAlg67 low => ⟨.command, 3#3 ++ low, Ports.zero⟩
  | .reservedDecRecvAlg alg => ⟨.command, commandWord 0x5 alg, Ports.zero⟩
  | .reservedChanOpenAlg alg => ⟨.command, commandWord 0x7 alg, Ports.zero⟩
  | .reservedChanCloseAlg alg => ⟨.command, commandWord 0x8 alg, Ports.zero⟩
  | .wireKindRequest => ⟨.frameByte1, 0x3F, Ports.zero⟩
  | .wireKindResponse => ⟨.frameByte1, 0x23, Ports.zero⟩
  | .wireKindInterrupt => ⟨.frameByte1, 0x21, Ports.zero⟩
  | .wireKindCommError => ⟨.frameByte1, 0x7E, Ports.zero⟩
  | .wireEcaNone => ⟨.frameByte2, 0x30, Ports.zero⟩
  | .wireEcaXor8 => ⟨.frameByte2, 0x31, Ports.zero⟩
  | .wireEcaChecksum16 => ⟨.frameByte2, 0x32, Ports.zero⟩
  | .wireEcaLrc16 => ⟨.frameByte2, 0x33, Ports.zero⟩
  | .wireEcaFletcher16 => ⟨.frameByte2, 0x34, Ports.zero⟩
  | .wireEcaCrc16 => ⟨.frameByte2, 0x35, Ports.zero⟩
  | .wireSentinel => ⟨.frameByte0, 0x21, Ports.zero⟩

/-- The `OP` field of an instruction's word: for a command, the operation code (30_encoding.md R120). -/
def opcode (i : Instr) : BitVec 4 := (encode i).byte.extractLsb' 0 4

/-- The command a role adapter's call expands to, with the adapter's algorithm `a`, the parameter
`P_ADAPTER_ECA` (43_host_ops.md R284 to R289). `LREQ_IN` is `|payload|` on its 32-bit port (log entry 24). -/
def expandCall (a : Alg) : AdapterCall → Instr
  | .sendRequest dev payload => .encReq a dev (BitVec.ofNat 32 payload.length) payload
  | .sendResponse dev payload => .encRsp a dev (BitVec.ofNat 32 payload.length) payload
  | .sendInterrupt dev code => .encSip a dev code
  | .sendError dev code => .encCep a dev code
  | .receive => .decRecv
  | .beginChannel => .chanOpenCmd

/-- What the command decoder reads from a word numbered as spec/opcode_table.json numbers it, the ports zero or
empty. A command word has 8 bits; a row of another width, or a word that does not fit, is refused. -/
def decodeTableWord (nbits w : Nat) : Option Instr :=
  if nbits = 8 ∧ w < 256 then some (decodeCommand (BitVec.ofNat 8 w) Ports.zero) else none

end Sys2Proof
end

