-- ==== Sys2Proof/Machine/State.lean ====
section
/-! DEFINITION. The state of the block, of the byte channel as the block sees it, and of the inputs still to
come; the reasons a step can stop; and the state right after reset. -/

namespace Sys2Proof.Machine

/-- `ST`, the decoder's state register (10_state.md R30). -/
inductive DecState where
  | idle
  | scan
  | waitHdr
  | waitLen
  | waitBody
  | waitShort
  deriving DecidableEq, Repr

/-- `STATUS.STATE` (10_state.md R38). `busy` carries the command accepted last, with the operand ports as they
were sampled at its accept step (30_encoding.md R121); no copy is kept after completion (20_memory.md R75;
log entry 23). -/
inductive Phase where
  | idle
  | busy (i : Instr)
  | done
  deriving DecidableEq, Repr

/-- The kind of the last receive's result, `RES_KIND` (10_state.md R45). -/
inductive ResKind where
  | request
  | response
  | interrupt
  | commError
  | timeout
  deriving DecidableEq, Repr

/-- The content of `DIAG_CAUSE`: a frame was accepted, or why the receive was rejected (60_exceptions.md R301). -/
inductive Cause where
  | accepted
  | noData
  | waitExpired
  | shortRead
  | badEca
  | badHex
  | badKind
  | integrity
  | badTerm
  deriving DecidableEq, Repr

/-- The registers the host reads by name (10_state.md R53). -/
inductive HostReg where
  | status
  | cfgRto
  | chanOpen
  | checkOut
  | diagCause
  | resKind
  | resDev
  | resCol
  /-- Byte `index` of `RES_PAYLOAD`. -/
  | resPayload (index : Nat)
  | resPayloadPresent
  | resEca
  deriving DecidableEq, Repr

/-- What the host does once a command it waits for is `DONE` (43_host_ops.md R288, R289). -/
inductive AfterDone where
  /-- It reads nothing. -/
  | nothing
  /-- `begin()`: it reads `STATUS`. -/
  | readStatus
  /-- `receive()`: it reads the result. -/
  | readResult
  deriving DecidableEq, Repr

/-- What the channel supplies by itself before each codec step (70_reset_and_hazards.md R356, 20_memory.md R63; log
entry 28). -/
inductive Supply where
  /-- Nothing: bytes arrive only as inputs. -/
  | quiet
  /-- `chunk`, then the chunks of `later` in order, and so on in a circle, without end. -/
  | cycle (chunk : List Byte) (later : List (List Byte))
  /-- Bytes no rule predicts, without end. -/
  | free
  deriving DecidableEq, Repr

/-- One input, in the order the inputs happen (00_scope.md R8, 20_memory.md R63, 60_exceptions.md R304; log
entry 11). -/
inductive Event where
  /-- The host presents a command word with its operand ports (30_encoding.md R120, R121). -/
  | command (w : Byte) (ports : Ports)
  /-- The host writes `CFG_RTO` (10_state.md R39). -/
  | writeRto (value : Nat)
  /-- The host reads a register (10_state.md R53). -/
  | read (r : HostReg)
  /-- The byte channel appends bytes to the receive stream (20_memory.md R63). -/
  | arrive (bytes : List Byte)
  /-- From now on the channel supplies bytes by itself as `f` says, before each codec step. -/
  | supply (f : Supply)
  /-- The reset input is asserted (70_reset_and_hazards.md R340). -/
  | reset
  /-- The codec takes one step before the next input. -/
  | codec
  /-- The host waits for `STATUS.STATE = DONE`, the codec taking its steps, and then does `next` (43_host_ops.md R288,
  70_reset_and_hazards.md R350; log entry 29). -/
  | awaitDone (next : AfterDone)
  deriving DecidableEq, Repr

/-- Why the machine stops with a fault. -/
inductive Fault where
  /-- A host read of a register, or of a payload byte, that is `UNWRITTEN` (60_exceptions.md R315, 10_state.md R53,
  70_reset_and_hazards.md R345); 93_implementation_defined.md S1 to S4 has the model stop on it. Raised by the host
  read. Safe: the spec itself faults. -/
  | unwrittenRead (r : HostReg)
  /-- A read from the channel whose bytes would lie past `FB[4109]`, which does not exist (10_state.md R33).
  Raised by the decoder's poll, in states no run reaches (log entry 16). Safe: the machine stops. -/
  | frameBufferOverrun
  /-- A `DEC_RECV` is executing and `ST` is `D_IDLE`: no rule gives it a step. Raised by `DEC_RECV`, in states no
  run reaches (log entry 17). Safe: the machine stops. -/
  | receiveNotStarted
  deriving DecidableEq, Repr

/-- Why the machine stops without a fault. All are safe. A request the block refuses (60_exceptions.md R314) is none of
these: it sets the refusal mark, and the machine goes on (log entry 9). -/
inductive Refusal where
  /-- An instruction with no meaning yet. Raised by exec's arms only. -/
  | notModelled (mnemonic : String)
  /-- A host read of `DIAG_CAUSE` where `P_DIAG_CAUSE = false`: the register does not exist (10_state.md R42; log
  entry 18). Raised by the host read. -/
  | registerAbsent
  /-- A wire byte executed where the decoder does not await it: it is then no instruction (log entry 12). Raised
  by the wire bytes, never by a step. -/
  | wireByteOutOfPlace
  deriving DecidableEq, Repr

/-- A byte store: the listed bytes by address, addresses strictly rising, no entry equal to what an unlisted
address reads as. -/
abbrev Memory := List Host.Cell

/-- Everything the spec gives the machine, and the model's own fields at the end. -/
structure State where
  /-- The implementation parameters (00_scope.md R9 to R24); no step writes them. -/
  cfg : Params
  /-- `STATUS.STATE` (10_state.md R38). -/
  phase : Phase
  /-- `STATUS.OP` (10_state.md R38). -/
  op : BitVec 4
  /-- `STATUS.OK` (10_state.md R38). -/
  ok : Bool
  /-- `CFG_RTO` (10_state.md R39). -/
  cfgRto : Nat
  /-- `CHAN_OPEN` (10_state.md R40). -/
  chanOpen : Bool
  /-- `CHECK_OUT`; `none` is `UNWRITTEN` (10_state.md R41). -/
  checkOut : Option Word
  /-- `DIAG_CAUSE`; `none` is `UNWRITTEN` (10_state.md R42). -/
  diagCause : Option Cause
  /-- `RES_KIND`; `none` is `UNWRITTEN` (10_state.md R45). -/
  resKind : Option ResKind
  /-- `RES_DEV` (10_state.md R46). -/
  resDev : Option (BitVec 12)
  /-- `RES_COL` (10_state.md R47). -/
  resCol : Option (BitVec 12)
  /-- `RES_PAYLOAD`: its written bytes from index 0; the bytes past them are `UNWRITTEN` (10_state.md R48). -/
  resPayload : List Byte
  /-- `RES_PAYLOAD_PRESENT` (10_state.md R48). -/
  resPayloadPresent : Option Bool
  /-- `RES_ECA` (10_state.md R49). -/
  resEca : Option Alg
  /-- `ST` (10_state.md R30). -/
  st : DecState
  /-- `FB` (10_state.md R33). -/
  fb : Memory
  /-- `FBN` (10_state.md R32). -/
  fbn : Nat
  /-- `NEED` (10_state.md R34). -/
  need : Nat
  /-- `TICKS` (10_state.md R35). -/
  ticks : Nat
  /-- `H_KIND` (10_state.md R36). -/
  hKind : Byte
  /-- `H_ECA` (10_state.md R36). -/
  hEca : Alg
  /-- `H_DEV` (10_state.md R36). -/
  hDev : BitVec 12
  /-- `H_LEN` (10_state.md R37). -/
  hLen : BitVec 12
  /-- `H_CODE` (10_state.md R37). -/
  hCode : Byte
  /-- `H_CHK` (10_state.md R37). -/
  hChk : BitVec 16
  /-- `RX`, the receive stream (20_memory.md R60). -/
  rx : List Byte
  /-- `TX`, the transmit stream (20_memory.md R60). -/
  tx : List Byte
  /-- The model's own: the inputs still to come (log entry 11). -/
  events : List Event
  /-- The model's own: choices of the channel already fixed for the draws to come (log entry 7). -/
  tape : List Nat
  /-- The model's own: how many draws came from the free constant (log entry 7). -/
  drawCount : Nat
  /-- The model's own: the host's register reads so far, oldest first, with the values they returned (log entry 22). -/
  hostReads : List (HostReg × Nat)
  /-- The model's own: the refusal mark, set by every request the block refuses (60_exceptions.md R314; log entry 27). -/
  refusalMark : Bool
  /-- The model's own: what the channel supplies by itself before each codec step (log entry 28). -/
  supply : Supply
  deriving DecidableEq, Repr

/-- The machine right after reset (10_state.md R54). The registers R54 leaves `UNSPECIFIED` hold zero (log entry
3, DESIGN CHOICE), the streams and the inputs are empty (log entry 6, DESIGN CHOICE). -/
def State.reset : State where
  cfg := Config.decided
  phase := .idle
  op := 0
  ok := false
  cfgRto := Config.decided.readTimeout
  chanOpen := false
  checkOut := none
  diagCause := none
  resKind := none
  resDev := none
  resCol := none
  resPayload := []
  resPayloadPresent := none
  resEca := none
  st := .idle
  fb := []
  fbn := 0
  need := 0
  ticks := 0
  hKind := 0
  hEca := .none
  hDev := 0
  hLen := 0
  hCode := 0
  hChk := 0
  rx := []
  tx := []
  events := []
  tape := []
  drawCount := 0
  hostReads := []
  refusalMark := false
  supply := .quiet

end Sys2Proof.Machine
end

