-- ==== Sys2Proof/Machine/Flags.lean ====
section
/-! DEFINITION. Status and result codes: the packing of `STATUS`, the codes of `RES_KIND`, `DIAG_CAUSE` and
`RES_ECA`, and the writing of the status flags. -/

namespace Sys2Proof.Machine

/-- The code of `STATUS.STATE` (10_state.md R38). -/
def phaseCode : Phase → BitVec 2
  | .idle => 0
  | .busy _ => 1
  | .done => 2

/-- `STATUS` as the host reads it: bits 1:0 `STATE`, 5:2 `OP`, 6 `OK`, 31:7 read as 0 (10_state.md R38). -/
def statusWord (s : State) : Word :=
  0#25 ++ BitVec.ofBool s.ok ++ s.op ++ phaseCode s.phase

/-- The code of `RES_KIND` (10_state.md R45). -/
def resKindCode : ResKind → BitVec 3
  | .request => 0
  | .response => 1
  | .interrupt => 2
  | .commError => 3
  | .timeout => 4

/-- The result kind of an accepted packet kind (10_state.md R45). -/
def resKindOf : Kind → ResKind
  | .request => .request
  | .response => .response
  | .interrupt => .interrupt
  | .commError => .commError

/-- The code of `DIAG_CAUSE` (60_exceptions.md R301). -/
def causeCode : Cause → BitVec 4
  | .accepted => 0
  | .noData => 1
  | .waitExpired => 2
  | .shortRead => 3
  | .badEca => 4
  | .badHex => 5
  | .badKind => 6
  | .integrity => 7
  | .badTerm => 8

/-- Is `STATUS.STATE = BUSY`? -/
def isBusy (s : State) : Bool :=
  match s.phase with
  | .idle => false
  | .busy _ => true
  | .done => false

/-- `done(r)`: `STATUS.STATE` and `STATUS.OK` at completion (10_state.md R44). -/
def complete (ok : Bool) (s : State) : State := { s with phase := .done, ok := ok }

/-- The accept step's flags: `STATUS.STATE <- BUSY`, `STATUS.OP <-` the command's code (10_state.md R43), and the
operand ports are sampled (30_encoding.md R121). -/
def accept (i : Instr) (s : State) : State := { s with phase := .busy i, op := opcode i }

/-- `DIAG_CAUSE <- c`, where the register exists (10_state.md R42). -/
def setCause (c : Cause) (s : State) : State :=
  { s with diagCause := if s.cfg.hasDiagCause then some c else s.diagCause }

end Sys2Proof.Machine
end

