-- ==== Sys2Proof/Machine/Operands.lean ====
section
/-! DEFINITION. Operand forms: fitting a value to its field, the effective payload length, and the rendering and
parsing of hexadecimal fields. -/

namespace Sys2Proof.Machine

/-- `fit_N(v)` (30_encoding.md R105, 00_scope.md R10). -/
def fit (o : FieldOverflow) (n v : Nat) : Nat :=
  match o with
  | .truncate => v % 2 ^ n
  | .saturate => min v (2 ^ n - 1)

/-- `L`, the effective payload length (41_encoder.md R181). -/
def effectiveLength (o : FieldOverflow) (lreq : Word) (pbuf : List Byte) : Nat :=
  min (fit o 12 lreq.toNat) pbuf.length

/-- `digit(d)` for `d` in 0..15 (30_encoding.md R100). -/
def hexDigit (d : Nat) : Byte :=
  if d < 10 then BitVec.ofNat 8 (0x30 + d) else BitVec.ofNat 8 (0x41 + (d - 10))

/-- `hexN(v)`: `n` uppercase digits, the most significant first (30_encoding.md R100). -/
def hexN : Nat → Nat → List Byte
  | 0, _ => []
  | n + 1, v => hexDigit (v / 16 ^ n % 16) :: hexN n v

/-- The value of a hex digit, if the character is one (30_encoding.md R101). -/
def hexValue (lowerOk : Bool) (c : Byte) : Option Nat :=
  if 0x30 ≤ c.toNat ∧ c.toNat ≤ 0x39 then some (c.toNat - 0x30)
  else if 0x41 ≤ c.toNat ∧ c.toNat ≤ 0x46 then some (c.toNat - 0x41 + 10)
  else if lowerOk = true ∧ 0x61 ≤ c.toNat ∧ c.toNat ≤ 0x66 then some (c.toNat - 0x61 + 10)
  else none

/-- The loop of `parseHex`, with the value `v` of the digits read so far (30_encoding.md R102). -/
def parseHexFrom (lowerOk : Bool) (v : Nat) : List Byte → Option Nat
  | [] => some v
  | c :: cs =>
    match hexValue lowerOk c with
    | some d => parseHexFrom lowerOk (16 * v + d) cs
    | none => none

/-- `parseHex(s)`; `none` is `FAIL` (30_encoding.md R102). -/
def parseHex (lowerOk : Bool) (s : List Byte) : Option Nat := parseHexFrom lowerOk 0 s

/-- `TermOK(cr, lf)` (42_decoder.md R246). -/
def termOk (rule : TermRule) (cr lf : Byte) : Bool :=
  match rule with
  | .crOrLf => decide (cr = 0x0D) || decide (lf = 0x0A)
  | .eitherByteCrOrLf =>
    (decide (cr = 0x0D) || decide (cr = 0x0A)) || (decide (lf = 0x0D) || decide (lf = 0x0A))

end Sys2Proof.Machine
end

