-- ==== Sys2Proof/Machine/Ops.lean ====
section
/-! DEFINITION. The shared operations: byte stores, the channel's draws and primitives, entering a wait, the
decoder's reject (the block's exception entry), acceptance, host reads, the reset event, and the two steps that
every command makes. -/

namespace Sys2Proof.Machine

/-! ## Byte stores -/

/-- What a byte of `FB` that nothing has written reads as (10_state.md R33 leaves it UNSPECIFIED; log entry 4,
DESIGN CHOICE, unsafe; 93_implementation_defined.md S7: no rule observes it). -/
def Memory.unlisted : Byte := 0

/-- The byte at an address. -/
def Memory.read : Memory → Nat → Byte
  | [], _ => Memory.unlisted
  | (k, v) :: m, a => if a = k then v else Memory.read m a

/-- Writing one byte; writing what an unlisted address reads as removes the entry. -/
def Memory.write : Memory → Nat → Byte → Memory
  | [], a, b => if b = Memory.unlisted then [] else [(a, b)]
  | (k, v) :: m, a, b =>
    if a < k then (if b = Memory.unlisted then (k, v) :: m else (a, b) :: (k, v) :: m)
    else if a = k then (if b = Memory.unlisted then m else (a, b) :: m)
    else (k, v) :: Memory.write m a b

/-- `MemWrite(a, |v|, v)` (00_scope.md R27). -/
def Memory.writeBytes : Memory → Nat → List Byte → Memory
  | m, _, [] => m
  | m, a, b :: bs => Memory.writeBytes (Memory.write m a b) (a + 1) bs

/-- `MemRead(a, n)` (00_scope.md R27). -/
def Memory.readBytes (m : Memory) : Nat → Nat → List Byte
  | _, 0 => []
  | a, n + 1 => Memory.read m a :: Memory.readBytes m (a + 1) n

/-- The canonical form from an address on: rising addresses, no entry equal to the unlisted byte. -/
def Memory.wfFrom : Nat → Memory → Bool
  | _, [] => true
  | lo, (k, v) :: m => decide (lo ≤ k) && decide (v ≠ Memory.unlisted) && Memory.wfFrom (k + 1) m

/-- The canonical form of a byte store. -/
def Memory.wf (m : Memory) : Bool := Memory.wfFrom 0 m

/-! ## Draws -/

/-- One draw of the channel: the next choice of the tape, or the free constant (log entry 7). -/
def draw (s : State) : Nat × State :=
  match s.tape with
  | d :: ds => (d, { s with tape := ds })
  | [] => (Config.freeDraw s.drawCount, { s with drawCount := s.drawCount + 1 })

/-- A draw read as a draw in `{true, false}`. -/
def drawBool (d : Nat) : Bool := decide (d % 2 = 1)

/-! ## Channel primitives -/

/-- `ChanAvail()` (20_memory.md R61). -/
def chanAvail (s : State) : Nat := if s.chanOpen then s.rx.length else 0

/-- Removes the first `k` bytes of `RX` and returns them (20_memory.md R62). -/
def takeRx (k : Nat) (s : State) : List Byte × State := (s.rx.take k, { s with rx := s.rx.drop k })

/-- `ChanRead(n)` (20_memory.md R62). -/
def chanRead (n : Nat) (s : State) : List Byte × State :=
  let m := min n (chanAvail s)
  if s.cfg.chanReadFull then takeRx m s
  else takeRx ((draw s).1 % (m + 1)) (draw s).2

/-- The effect of `ChanWrite(s)` on `TX` while the channel is open (20_memory.md R64). -/
def chanWrite (bs : List Byte) (s : State) : State := { s with tx := s.tx ++ bs }

/-- Arrival of bytes: only while the channel is open (20_memory.md R63); while it is closed nothing arrives
(92_eei_decisions.md D19; log entry 20). -/
def arrive (bs : List Byte) (s : State) : State :=
  { s with rx := if s.chanOpen then s.rx ++ bs else s.rx }

/-- The bytes the channel supplies by itself before the next codec step (log entry 28). -/
def suppliedBytes (s : State) : List Byte :=
  match s.supply with
  | .quiet => []
  | .cycle c _ => c
  | .free => Config.freeArrival s.drawCount

/-- What it supplies after that. -/
def nextSupply : Supply → Supply
  | .quiet => .quiet
  | .cycle c [] => .cycle c []
  | .cycle c (d :: ds) => .cycle d (ds ++ [c])
  | .free => .free

/-- The channel's own arrival before a codec step (20_memory.md R63, 60_exceptions.md R304, 70_reset_and_hazards.md
R356; log entry 28). -/
def supplyNext (s : State) : State :=
  { arrive (suppliedBytes s) s with
    supply := nextSupply s.supply
    drawCount := if s.supply = .free then s.drawCount + 1 else s.drawCount }

/-! ## Refusal -/

/-- A refused request changes no state of the block and sets the refusal mark (60_exceptions.md R314); a command in
progress goes on (log entry 9). -/
def refuseRequest (s : State) : State := { s with refusalMark := true }

/-! ## The decoder's registers -/

/-- One byte of `FB`. -/
def fbByte (a : Nat) (s : State) : Byte := Memory.read s.fb a

/-- `FB[a..a+n-1]`. -/
def fbBytes (a n : Nat) (s : State) : List Byte := Memory.readBytes s.fb a n

/-- `MemWrite(FBN, |s|, s); FBN <- FBN + |s|` (42_decoder.md R225). -/
def fbAppend (bs : List Byte) (s : State) : State :=
  { s with fb := Memory.writeBytes s.fb s.fbn bs, fbn := s.fbn + bs.length }

/-- `EnterWait(S, n)` (42_decoder.md R226). -/
def enterWait (w : DecState) (n : Nat) (s : State) : State :=
  { s with st := w, need := n, ticks := if s.cfg.tickScope = .perWait then 0 else s.ticks }

/-! ## The end of a receive -/

/-- `raise Reject(cause)`, the block's exception entry (60_exceptions.md R300): the result is `Timeout`, the
frame's registers become `UNWRITTEN`, the cause is recorded, the command completes with `OK = 0`, `ST` goes to
`D_IDLE`; nothing else changes and no byte returns to `RX`. -/
def reject (c : Cause) (s : State) : State :=
  complete false (setCause c
    { s with
      resKind := some .timeout
      resDev := none
      resCol := none
      resEca := none
      resPayload := []
      resPayloadPresent := none
      st := .idle })

/-- Acceptance of a frame of kind `k` (42_decoder.md R247, R257): the result registers, the cause 0, completion
with `OK = 1`, `ST` at `D_IDLE`. It is also the return from a receive: there is no other (60_exceptions.md R306). -/
def acceptFrame (k : Kind) (col : BitVec 12) (present : Bool) (payload : List Byte) (s : State) : State :=
  complete true (setCause .accepted
    { s with
      resKind := some (resKindOf k)
      resDev := some s.hDev
      resCol := some col
      resEca := some s.hEca
      resPayload := payload
      resPayloadPresent := some present
      st := .idle })

/-! ## Host reads -/

/-- A host read that returns `v`; a register that is `UNWRITTEN` faults, and the model stops (60_exceptions.md R315,
10_state.md R53, 93_implementation_defined.md S1 to S4). A read has no side effect on the block (20_memory.md R72); the
value goes to the model's record of the host's reads (log entry 22). -/
def readOut (r : HostReg) (v : Option Nat) (s : State) : Host.Outcome State Fault Refusal :=
  match v with
  | some n => .next { s with hostReads := s.hostReads ++ [(r, n)] }
  | none => .fault (.unwrittenRead r)

/-- A host read of a register by name (10_state.md R53). -/
def hostRead (r : HostReg) (s : State) : Host.Outcome State Fault Refusal :=
  match r with
  | .status => readOut r (some (statusWord s).toNat) s
  | .cfgRto => readOut r (some s.cfgRto) s
  | .chanOpen => readOut r (some s.chanOpen.toNat) s
  | .checkOut => readOut r (s.checkOut.map BitVec.toNat) s
  | .diagCause =>
    if s.cfg.hasDiagCause then readOut r (s.diagCause.map fun c => (causeCode c).toNat) s
    else .refused .registerAbsent
  | .resKind => readOut r (s.resKind.map fun k => (resKindCode k).toNat) s
  | .resDev => readOut r (s.resDev.map BitVec.toNat) s
  | .resCol => readOut r (s.resCol.map BitVec.toNat) s
  | .resPayload i => readOut r (s.resPayload[i]?.map BitVec.toNat) s
  | .resPayloadPresent => readOut r (s.resPayloadPresent.map Bool.toNat) s
  | .resEca => readOut r (s.resEca.map fun a => (algOrdinal a).toNat) s

/-! ## Host writes and reset -/

/-- What `CFG_RTO`, `width` bits wide, holds after a write of `v`; a value too wide for it leaves a free value of that
width (10_state.md R39; log entry 14). -/
def rtoHeld (width v : Nat) : Nat := if v < 2 ^ width then v else Config.wideRtoValue width v % 2 ^ width

/-- A host write of `CFG_RTO`, refused while `BUSY` (10_state.md R39, R43). -/
def writeRto (v : Nat) (s : State) : State :=
  if isBusy s then refuseRequest s else { s with cfgRto := rtoHeld s.cfg.rtoWidth v }

/-- `RX` after a close or a reset: a draw between unchanged and empty (20_memory.md R65). -/
def rxAfterDraw (d : Nat) (rx : List Byte) : List Byte := if drawBool d then [] else rx

/-- The reset event (70_reset_and_hazards.md R340): every register at its reset value, `TX` unchanged, `RX` a
draw between unchanged and empty. The parameters, the inputs to come and the model's own records are no registers of the
block (log entry 25). -/
def resetBlock (s : State) : State :=
  { State.reset with
    cfg := s.cfg
    cfgRto := s.cfg.readTimeout
    rx := rxAfterDraw (draw s).1 s.rx
    tx := s.tx
    events := s.events
    tape := (draw s).2.tape
    drawCount := (draw s).2.drawCount
    hostReads := s.hostReads
    refusalMark := s.refusalMark
    supply := s.supply }

/-! ## The steps of a command -/

/-- The step of a command `i` (10_state.md R43, 70_reset_and_hazards.md R371): while the block is not `BUSY`, the
accept step, `start` being what the command's own rule adds to it, where the ports are in their bounds (`portsOk`);
while it is `BUSY` with `i`, the command's next step, `work`. With a port out of its bounds, and while the block is
`BUSY` with another command, `i` is refused (60_exceptions.md R314; log entry 10). -/
def runCommand (i : Instr) (portsOk : Bool) (start : State → State)
    (work : State → Host.Outcome State Fault Refusal) (s : State) : Host.Outcome State Fault Refusal :=
  match s.phase with
  | .idle => .next (if portsOk then start (accept i s) else refuseRequest s)
  | .busy j => if j = i then work s else .next (refuseRequest s)
  | .done => .next (if portsOk then start (accept i s) else refuseRequest s)

end Sys2Proof.Machine
end

