-- ==== Sys2Proof/Machine/Channel.lean ====
section
/-! DEFINITION. The channel commands (43_host_ops.md section 1): the meanings of `CHAN_OPEN_CMD` and
`CHAN_CLOSE_CMD`. -/

namespace Sys2Proof.Machine

/-- The work of `CHAN_OPEN_CMD`: the channel's answer is a draw; an open channel is not asked (43_host_ops.md
R280). -/
def openChannel (s : State) : State :=
  if s.chanOpen then complete true s
  else complete (drawBool (draw s).1) { (draw s).2 with chanOpen := drawBool (draw s).1 }

/-- The work of `CHAN_CLOSE_CMD` (43_host_ops.md R281, 20_memory.md R65). Closing a closed channel has no further
effect, so `RX` is drawn only where the channel was open (log entry 19). -/
def closeChannel (s : State) : State :=
  if s.chanOpen then
    complete true { (draw s).2 with chanOpen := false, rx := rxAfterDraw (draw s).1 s.rx }
  else complete true s

/-- `CHAN_OPEN_CMD` (43_host_ops.md R280). -/
def execChanOpenCmd (s : State) : Host.Outcome State Fault Refusal :=
  runCommand .chanOpenCmd true id (fun s => .next (openChannel s)) s

/-- `CHAN_CLOSE_CMD` (43_host_ops.md R281). -/
def execChanCloseCmd (s : State) : Host.Outcome State Fault Refusal :=
  runCommand .chanCloseCmd true id (fun s => .next (closeChannel s)) s

end Sys2Proof.Machine
end

