-- ==== Sys2Proof/Machine/Checksum.lean ====
section
/-! DEFINITION. The checksum selector and pipeline (40_checksum.md) and the meaning of `CHK_COMPUTE`. -/

namespace Sys2Proof.Machine

/-! ## Xor8, Checksum16, Lrc16 -/

/-- `CHK_XOR8` (40_checksum.md R143). -/
def chkXor8 (s : List Byte) : Byte := s.foldl (fun acc b => acc ^^^ b) 0

/-- `CHK_CS16`: the 32-bit two's-complement sum of signed bytes (40_checksum.md R144). -/
def chkCs16 (s : List Byte) : Word := s.foldl (fun sum b => sum + b.signExtend 32) 0

/-- `v(b)` of Lrc16: the byte, or its signed value (40_checksum.md R146). -/
def lrcValue (signed : Bool) (b : Byte) : BitVec 16 := if signed then b.signExtend 16 else b.setWidth 16

/-- `CHK_LRC16` (40_checksum.md R146). -/
def chkLrc16 (signed : Bool) (s : List Byte) : BitVec 16 :=
  (s.foldl (fun sum b => sum + lrcValue signed b) 0 ^^^ 0xFFFF) + 1

/-! ## Fletcher16 -/

/-- The two accumulators of Fletcher16. -/
structure FletcherSums where
  sum1 : Nat
  sum2 : Nat
  deriving DecidableEq, Repr

/-- The step of Fletcher16 on an unsigned byte (40_checksum.md R147). -/
def fletcherStep (t : FletcherSums) (b : Byte) : FletcherSums :=
  let sum1 := (t.sum1 + b.toNat) % 255
  ⟨sum1, (t.sum2 + sum1) % 255⟩

/-- `CHK_FLETCHER16` on unsigned bytes (40_checksum.md R147): `(sum2 << 8) | sum1`. -/
def fletcherUnsigned (s : List Byte) : BitVec 16 :=
  let t := s.foldl fletcherStep ⟨0, 0⟩
  BitVec.ofNat 16 (t.sum2 <<< 8 ||| t.sum1)

/-- `CHK_FLETCHER16` (40_checksum.md R147, R148): under `P_FLETCHER16_SIGNED`, a string with a byte of 0x80 or
above has a value no source gives, which is free (log entry 8). -/
def chkFletcher16 (signed : Bool) (s : List Byte) : BitVec 16 :=
  if signed = true ∧ s.any (fun b => decide (0x80 ≤ b.toNat)) = true then Config.fletcher16SignedValue s
  else fletcherUnsigned s

/-! ## Crc16 -/

/-- One of the eight shifts of a Crc16 step (40_checksum.md R149). -/
def crcShift (crc : BitVec 16) : BitVec 16 :=
  if crc.getLsbD 0 then (crc >>> 1) ^^^ 0xA001 else crc >>> 1

/-- `n` shifts. -/
def crcShifts : Nat → BitVec 16 → BitVec 16
  | 0, crc => crc
  | n + 1, crc => crcShifts n (crcShift crc)

/-- The step of Crc16 on a byte (40_checksum.md R149). -/
def crcStep (crc : BitVec 16) (b : Byte) : BitVec 16 := crcShifts 8 (crc ^^^ b.setWidth 16)

/-- The final function of Crc16 (40_checksum.md R149, R150). -/
def crcFinal (swap : Bool) (crc : BitVec 16) : BitVec 16 :=
  if swap then crc.extractLsb' 0 8 ++ crc.extractLsb' 8 8 else crc

/-- `CHK_CRC16` (40_checksum.md R149). -/
def chkCrc16 (swap : Bool) (s : List Byte) : BitVec 16 := crcFinal swap (s.foldl crcStep 0xFFFF)

/-! ## The selector -/

/-- `Compute(alg, s)` as the 32-bit two's-complement integer that `CHECK_OUT` holds (40_checksum.md R140,
10_state.md R41). -/
def compute (cfg : Params) (alg : Alg) (s : List Byte) : Word :=
  match alg with
  | .none => 0
  | .xor8 => (chkXor8 s).setWidth 32
  | .checksum16 => chkCs16 s
  | .lrc16 => (chkLrc16 cfg.lrc16Signed s).setWidth 32
  | .fletcher16 => (chkFletcher16 cfg.fletcher16Signed s).setWidth 32
  | .crc16 => (chkCrc16 cfg.crc16FinalSwap s).setWidth 32

/-- `field16(c) = c mod 65536` (40_checksum.md R145). -/
def field16 (c : Word) : BitVec 16 := c.setWidth 16

/-- `CheckOK(alg, cov, chk)` (40_checksum.md R152). -/
def checkOk (cfg : Params) (alg : Alg) (cov : List Byte) (chk : BitVec 16) : Bool :=
  match alg with
  | .none => true
  | .checksum16 =>
    match cfg.cs16Compare with
    | .full => decide ((compute cfg .checksum16 cov).toInt = (chk.toNat : Int))
    | .masked16 => decide (field16 (compute cfg .checksum16 cov) = chk)
  | .xor8 => decide (field16 (compute cfg .xor8 cov) = chk)
  | .lrc16 => decide (field16 (compute cfg .lrc16 cov) = chk)
  | .fletcher16 => decide (field16 (compute cfg .fletcher16 cov) = chk)
  | .crc16 => decide (field16 (compute cfg .crc16 cov) = chk)

/-! ## `CHK_COMPUTE` -/

/-- The ports of `CHK_COMPUTE` are in their bounds (20_memory.md R76). -/
def chkPortsOk (dbuf : List Byte) (n : Nat) : Bool :=
  decide (dbuf.length ≤ Config.frameMax) && decide (n ≤ dbuf.length)

/-- `CHK_COMPUTE` (43_host_ops.md R282). -/
def execChkCompute (alg : Alg) (dbuf : List Byte) (n : Nat) (s : State) : Host.Outcome State Fault Refusal :=
  runCommand (.chkCompute alg dbuf n) (chkPortsOk dbuf n) id
    (fun s => .next (complete true { s with checkOut := some (compute s.cfg alg (dbuf.take n)) })) s

end Sys2Proof.Machine
end

