-- ==== Sys2Proof/Machine/Encoder.lean ====
section
/-! DEFINITION. The frame encoder and packet-kind mux (41_encoder.md): the meanings of `ENC_REQ`, `ENC_RSP`,
`ENC_SIP` and `ENC_CEP`. -/

namespace Sys2Proof.Machine

/-- `cov`, the bytes the check covers: sentinel, kind, ECA digit, device id, body (41_encoder.md R182). -/
def coveredBytes (cfg : Params) (k : Kind) (alg : Alg) (dev : Word) (body : List Byte) : List Byte :=
  sentinelByte :: kindChar k :: ecaChar alg :: (hexN 3 (fit cfg.fieldOverflow 12 dev.toNat) ++ body)

/-- The whole frame: the covered bytes, the check field, CR LF (41_encoder.md R182). -/
def frameBytes (cfg : Params) (k : Kind) (alg : Alg) (dev : Word) (body : List Byte) : List Byte :=
  let cov := coveredBytes cfg k alg dev body
  cov ++ hexN 4 (field16 (compute cfg alg cov)).toNat ++ [0x0D, 0x0A]

/-- The body of a Request or Response: the length field and the payload (41_encoder.md R181, R183). -/
def longBody (cfg : Params) (lreq : Word) (pbuf : List Byte) : List Byte :=
  let l := effectiveLength cfg.fieldOverflow lreq pbuf
  hexN 3 l ++ pbuf.take l

/-- The body of an Interrupt or CommError: the code field (41_encoder.md R185). -/
def shortBody (cfg : Params) (code : Word) : List Byte := hexN 2 (fit cfg.fieldOverflow 8 code.toNat)

/-- `EncodeFrame` (41_encoder.md R182): on a closed channel `ChannelFailure`, with nothing written and
`CHECK_OUT` unchanged (60_exceptions.md R312). -/
def encodeFrame (k : Kind) (alg : Alg) (dev : Word) (body : List Byte) (s : State) : State :=
  if s.chanOpen then
    complete true
      { chanWrite (frameBytes s.cfg k alg dev body) s with
        checkOut := some (compute s.cfg alg (coveredBytes s.cfg k alg dev body)) }
  else complete false s

/-- `PBUF` is within `P_MSGMAXSIZE` (20_memory.md R75). -/
def pbufOk (pbuf : List Byte) : Bool := decide (pbuf.length ≤ Config.msgMaxSize)

/-- `ENC_REQ` (41_encoder.md R183). -/
def execEncReq (alg : Alg) (dev lreq : Word) (pbuf : List Byte) (s : State) :
    Host.Outcome State Fault Refusal :=
  runCommand (.encReq alg dev lreq pbuf) (pbufOk pbuf) id
    (fun s => .next (encodeFrame .request alg dev (longBody s.cfg lreq pbuf) s)) s

/-- `ENC_RSP` (41_encoder.md R184). -/
def execEncRsp (alg : Alg) (dev lreq : Word) (pbuf : List Byte) (s : State) :
    Host.Outcome State Fault Refusal :=
  runCommand (.encRsp alg dev lreq pbuf) (pbufOk pbuf) id
    (fun s => .next (encodeFrame .response alg dev (longBody s.cfg lreq pbuf) s)) s

/-- `ENC_SIP` (41_encoder.md R185). -/
def execEncSip (alg : Alg) (dev code : Word) (s : State) : Host.Outcome State Fault Refusal :=
  runCommand (.encSip alg dev code) true id
    (fun s => .next (encodeFrame .interrupt alg dev (shortBody s.cfg code) s)) s

/-- `ENC_CEP` (41_encoder.md R186). -/
def execEncCep (alg : Alg) (dev code : Word) (s : State) : Host.Outcome State Fault Refusal :=
  runCommand (.encCep alg dev code) true id
    (fun s => .next (encodeFrame .commError alg dev (shortBody s.cfg code) s)) s

end Sys2Proof.Machine
end

