-- ==== Sys2Proof/Machine/Wire.lean ====
section
/-! DEFINITION. The wire bytes with a meaning (30_encoding.md R91 to R93): what the decoder does on taking the
sentinel, a kind character or an ECA digit at its place in a frame, and the meanings of the wire rows of the
opcode table, which are those effects (log entry 12). -/

namespace Sys2Proof.Machine

/-- Taking the sentinel: it becomes `FB[0]`, and the header wait begins (42_decoder.md R230). -/
def takeSentinel (s : State) : State :=
  enterWait .waitHdr 5 { s with fb := Memory.writeBytes s.fb 0 [sentinelByte], fbn := 1 }

/-- The wait a kind character leads to (42_decoder.md R235). -/
def kindWait : Kind → DecState
  | .request => .waitLen
  | .response => .waitLen
  | .interrupt => .waitShort
  | .commError => .waitShort

/-- The bytes that wait needs (42_decoder.md R235). -/
def kindNeed : Kind → Nat
  | .request => 3
  | .response => 3
  | .interrupt => 8
  | .commError => 8

/-- Taking a kind character: `H_KIND` holds it, and `Dispatch` enters its wait (42_decoder.md R233, R235). -/
def takeKind (k : Kind) (s : State) : State :=
  enterWait (kindWait k) (kindNeed k) { s with hKind := kindChar k }

/-- Taking an ECA digit: `H_ECA` holds its ordinal (42_decoder.md R233). -/
def takeEca (a : Alg) (s : State) : State := { s with hEca := a }

/-- A wire byte acts where the decoder awaits it, in state `w` of a receive; elsewhere it is no instruction (log
entry 12). -/
def wireByte (w : DecState) (take : State → State) (s : State) : Host.Outcome State Fault Refusal :=
  if s.st = w then .next (take s) else .refused .wireByteOutOfPlace

/-- `WIRE_SENTINEL` (30_encoding.md R91, 42_decoder.md R230). -/
def execWireSentinel (s : State) : Host.Outcome State Fault Refusal := wireByte .scan takeSentinel s

/-- `WIRE_KIND_REQUEST` (30_encoding.md R92, 42_decoder.md R235). -/
def execWireKindRequest (s : State) : Host.Outcome State Fault Refusal := wireByte .waitHdr (takeKind .request) s

/-- `WIRE_KIND_RESPONSE` (30_encoding.md R92, 42_decoder.md R235). -/
def execWireKindResponse (s : State) : Host.Outcome State Fault Refusal := wireByte .waitHdr (takeKind .response) s

/-- `WIRE_KIND_INTERRUPT` (30_encoding.md R92, 42_decoder.md R235). -/
def execWireKindInterrupt (s : State) : Host.Outcome State Fault Refusal :=
  wireByte .waitHdr (takeKind .interrupt) s

/-- `WIRE_KIND_COMMERROR` (30_encoding.md R92, 42_decoder.md R235). -/
def execWireKindCommError (s : State) : Host.Outcome State Fault Refusal :=
  wireByte .waitHdr (takeKind .commError) s

/-- `WIRE_ECA_NONE` (30_encoding.md R93, 42_decoder.md R233). -/
def execWireEcaNone (s : State) : Host.Outcome State Fault Refusal := wireByte .waitHdr (takeEca .none) s

/-- `WIRE_ECA_XOR8` (30_encoding.md R93, 42_decoder.md R233). -/
def execWireEcaXor8 (s : State) : Host.Outcome State Fault Refusal := wireByte .waitHdr (takeEca .xor8) s

/-- `WIRE_ECA_CHECKSUM16` (30_encoding.md R93, 42_decoder.md R233). -/
def execWireEcaChecksum16 (s : State) : Host.Outcome State Fault Refusal :=
  wireByte .waitHdr (takeEca .checksum16) s

/-- `WIRE_ECA_LRC16` (30_encoding.md R93, 42_decoder.md R233). -/
def execWireEcaLrc16 (s : State) : Host.Outcome State Fault Refusal := wireByte .waitHdr (takeEca .lrc16) s

/-- `WIRE_ECA_FLETCHER16` (30_encoding.md R93, 42_decoder.md R233). -/
def execWireEcaFletcher16 (s : State) : Host.Outcome State Fault Refusal :=
  wireByte .waitHdr (takeEca .fletcher16) s

/-- `WIRE_ECA_CRC16` (30_encoding.md R93, 42_decoder.md R233). -/
def execWireEcaCrc16 (s : State) : Host.Outcome State Fault Refusal := wireByte .waitHdr (takeEca .crc16) s

end Sys2Proof.Machine
end

