-- ==== Sys2Proof/Machine/Receiver.lean ====
section
/-! DEFINITION. The frame-boundary detector and reassembler (42_decoder.md): the meaning of `DEC_RECV`. -/

namespace Sys2Proof.Machine

/-- The accept step's own part (42_decoder.md R220). -/
def startReceive (s : State) : State := { s with fbn := 0, ticks := 0, st := .scan }

/-- The scan step on the bytes the read returned (42_decoder.md R230): nothing ends the receive, the sentinel is
taken, any other byte is dropped. -/
def scanned (bs : List Byte) (s : State) : State :=
  match bs with
  | [] => reject .noData s
  | b :: _ => if b = sentinelByte then takeSentinel s else s

/-- `ScanStep` (42_decoder.md R230). -/
def scanStep (s : State) : State := scanned (chanRead 1 s).1 (chanRead 1 s).2

/-- `Process(D_WAIT_HDR)`, with the checks in the order ECA, device id, kind (42_decoder.md R233, R234, R235). -/
def processHeader (s : State) : State :=
  let s := { s with hKind := fbByte 1 s }
  match ecaOfChar (fbByte 2 s) with
  | none => reject .badEca s
  | some a =>
    let s := takeEca a s
    match parseHex s.cfg.hexLowerOk (fbBytes 3 3 s) with
    | none => reject .badHex s
    | some v =>
      let s := { s with hDev := BitVec.ofNat 12 v }
      match kindOfChar s.hKind with
      | none => reject .badKind s
      | some k => takeKind k s

/-- `Process(D_WAIT_LEN)` (42_decoder.md R240). -/
def processLength (s : State) : State :=
  match parseHex s.cfg.hexLowerOk (fbBytes 6 3 s) with
  | none => reject .badHex s
  | some v => enterWait .waitBody (v + 6) { s with hLen := BitVec.ofNat 12 v }

/-- Is the check field parsed: always, but for ECA None when `P_NONE_CHECK_PARSE` is false (42_decoder.md R245)? -/
def parsesCheck (s : State) : Bool := decide (s.hEca ≠ .none) || s.cfg.noneCheckParse

/-- The check field at `FB[a..a+3]`: parsed into `H_CHK` where it is parsed at all, `none` where the parse fails
(42_decoder.md R245, R250). -/
def latchCheck (a : Nat) (s : State) : Option State :=
  if parsesCheck s then
    match parseHex s.cfg.hexLowerOk (fbBytes a 4 s) with
    | none => none
    | some v => some { s with hChk := BitVec.ofNat 16 v }
  else some s

/-- The kind of a Request or Response being accepted (42_decoder.md R247). -/
def longKind (c : Byte) : Kind := if c = kindChar .request then .request else .response

/-- The kind of an Interrupt or CommError being accepted (42_decoder.md R257). -/
def shortKind (c : Byte) : Kind := if c = kindChar .interrupt then .interrupt else .commError

/-- The end of a Request's or Response's body once its check field is latched: integrity over every byte from the
sentinel to the end of the payload, then the terminator, then acceptance (42_decoder.md R245, R247). -/
def finishLong (s : State) : State :=
  if checkOk s.cfg s.hEca (fbBytes 0 (9 + s.hLen.toNat) s) s.hChk then
    if termOk s.cfg.termRule (fbByte (13 + s.hLen.toNat) s) (fbByte (14 + s.hLen.toNat) s) then
      acceptFrame (longKind s.hKind) s.hLen true (fbBytes 9 s.hLen.toNat s) s
    else reject .badTerm s
  else reject .integrity s

/-- `Process(D_WAIT_BODY)` (42_decoder.md R245). -/
def processBody (s : State) : State :=
  match latchCheck (9 + s.hLen.toNat) s with
  | none => reject .badHex s
  | some t => finishLong t

/-- The terminator test of an Interrupt or CommError: none, unless `P_SIPCEP_TERM_CHECK` (42_decoder.md R256). -/
def shortTermOk (s : State) : Bool :=
  !s.cfg.sipcepTermCheck || termOk s.cfg.termRule (fbByte 12 s) (fbByte 13 s)

/-- The end of an Interrupt's or CommError's body once its check field is latched: integrity over the eight bytes before
it, then the terminator where it is tested, then acceptance (42_decoder.md R250, R257). -/
def finishShort (s : State) : State :=
  if checkOk s.cfg s.hEca (fbBytes 0 8 s) s.hChk then
    if shortTermOk s then acceptFrame (shortKind s.hKind) (s.hCode.setWidth 12) false [] s
    else reject .badTerm s
  else reject .integrity s

/-- `Process(D_WAIT_SHORT)` (42_decoder.md R250). -/
def processShort (s : State) : State :=
  match parseHex s.cfg.hexLowerOk (fbBytes 6 2 s) with
  | none => reject .badHex s
  | some v =>
    match latchCheck 8 { s with hCode := BitVec.ofNat 8 v } with
    | none => reject .badHex { s with hCode := BitVec.ofNat 8 v }
    | some t => finishShort t

/-- A poll that read `bs`: the bytes go to `FB`; a short read ends the receive, a whole one is processed
(42_decoder.md R225). `FB` has no byte past 4109 (log entry 16). -/
def polled (process : State → State) (bs : List Byte) (s : State) : Host.Outcome State Fault Refusal :=
  if Config.frameMax < s.fbn + bs.length then .fault .frameBufferOverrun
  else if bs.length < s.need then .next (reject .shortRead (fbAppend bs s))
  else .next (process (fbAppend bs s))

/-- `PollStep` (42_decoder.md R225): the byte test, then the budget test, then one tick of sleep. -/
def pollStep (process : State → State) (s : State) : Host.Outcome State Fault Refusal :=
  if s.need ≤ chanAvail s then polled process (chanRead s.need s).1 (chanRead s.need s).2
  else if s.cfgRto < s.ticks then .next (reject .waitExpired s)
  else .next { s with ticks := s.ticks + 1 }

/-- The next step of a receive in progress, by `ST` (42_decoder.md R221). -/
def receiveStep (s : State) : Host.Outcome State Fault Refusal :=
  match s.st with
  | .idle => .fault .receiveNotStarted
  | .scan => .next (scanStep s)
  | .waitHdr => pollStep processHeader s
  | .waitLen => pollStep processLength s
  | .waitBody => pollStep processBody s
  | .waitShort => pollStep processShort s

/-- `DEC_RECV` (42_decoder.md R220). -/
def execDecRecv (s : State) : Host.Outcome State Fault Refusal :=
  runCommand .decRecv true startReceive receiveStep s

end Sys2Proof.Machine
end

