-- ==== Sys2Proof/Machine/Reserved.lean ====
section
/-! DEFINITION. The reserved command words (30_encoding.md R122): the meanings of the reserved rows of the opcode
table. The spec refuses each of them: no register changes, and the refusal mark is set. -/

namespace Sys2Proof.Machine

/-- `RESERVED_OP_0x0` (30_encoding.md R122). -/
def execReservedOp0 (_hi : BitVec 4) (s : State) : Host.Outcome State Fault Refusal :=
  .next (refuseRequest s)

/-- `RESERVED_OP_0x9` (30_encoding.md R122). -/
def execReservedOp9 (_hi : BitVec 4) (s : State) : Host.Outcome State Fault Refusal :=
  .next (refuseRequest s)

/-- `RESERVED_OP_0xA` (30_encoding.md R122). -/
def execReservedOpA (_hi : BitVec 4) (s : State) : Host.Outcome State Fault Refusal :=
  .next (refuseRequest s)

/-- `RESERVED_OP_0xB` (30_encoding.md R122). -/
def execReservedOpB (_hi : BitVec 4) (s : State) : Host.Outcome State Fault Refusal :=
  .next (refuseRequest s)

/-- `RESERVED_OP_0xC` (30_encoding.md R122). -/
def execReservedOpC (_hi : BitVec 4) (s : State) : Host.Outcome State Fault Refusal :=
  .next (refuseRequest s)

/-- `RESERVED_OP_0xD` (30_encoding.md R122). -/
def execReservedOpD (_hi : BitVec 4) (s : State) : Host.Outcome State Fault Refusal :=
  .next (refuseRequest s)

/-- `RESERVED_OP_0xE` (30_encoding.md R122). -/
def execReservedOpE (_hi : BitVec 4) (s : State) : Host.Outcome State Fault Refusal :=
  .next (refuseRequest s)

/-- `RESERVED_OP_0xF` (30_encoding.md R122). -/
def execReservedOpF (_hi : BitVec 4) (s : State) : Host.Outcome State Fault Refusal :=
  .next (refuseRequest s)

/-- `RESERVED_BIT7` (30_encoding.md R122). -/
def execReservedBit7 (_low : BitVec 7) (s : State) : Host.Outcome State Fault Refusal :=
  .next (refuseRequest s)

/-- `RESERVED_ALG_6_7` (30_encoding.md R122). -/
def execReservedAlg67 (_low : BitVec 5) (s : State) : Host.Outcome State Fault Refusal :=
  .next (refuseRequest s)

/-- `RESERVED_DEC_RECV_ALG_NONZERO` (30_encoding.md R122). -/
def execReservedDecRecvAlg (_alg : BitVec 3) (s : State) : Host.Outcome State Fault Refusal :=
  .next (refuseRequest s)

/-- `RESERVED_CHAN_OPEN_CMD_ALG_NONZERO` (30_encoding.md R122). -/
def execReservedChanOpenAlg (_alg : BitVec 3) (s : State) : Host.Outcome State Fault Refusal :=
  .next (refuseRequest s)

/-- `RESERVED_CHAN_CLOSE_CMD_ALG_NONZERO` (30_encoding.md R122). -/
def execReservedChanCloseAlg (_alg : BitVec 3) (s : State) : Host.Outcome State Fault Refusal :=
  .next (refuseRequest s)

end Sys2Proof.Machine
end

