-- ==== Sys2Proof/Machine/Dispatch.lean ====
section
/-! DEFINITION. One arm for each instruction: its next step in a state. -/

namespace Sys2Proof.Machine

def exec (i : Instr) (s : State) : Host.Outcome State Fault Refusal :=
  match i with
  | .encReq alg dev lreq pbuf => Sys2Proof.Machine.execEncReq alg dev lreq pbuf s
  | .encRsp alg dev lreq pbuf => Sys2Proof.Machine.execEncRsp alg dev lreq pbuf s
  | .encSip alg dev code => Sys2Proof.Machine.execEncSip alg dev code s
  | .encCep alg dev code => Sys2Proof.Machine.execEncCep alg dev code s
  | .decRecv => Sys2Proof.Machine.execDecRecv s
  | .chkCompute alg dbuf n => Sys2Proof.Machine.execChkCompute alg dbuf n s
  | .chanOpenCmd => Sys2Proof.Machine.execChanOpenCmd s
  | .chanCloseCmd => Sys2Proof.Machine.execChanCloseCmd s
  | .reservedOp0 hi => Sys2Proof.Machine.execReservedOp0 hi s
  | .reservedOp9 hi => Sys2Proof.Machine.execReservedOp9 hi s
  | .reservedOpA hi => Sys2Proof.Machine.execReservedOpA hi s
  | .reservedOpB hi => Sys2Proof.Machine.execReservedOpB hi s
  | .reservedOpC hi => Sys2Proof.Machine.execReservedOpC hi s
  | .reservedOpD hi => Sys2Proof.Machine.execReservedOpD hi s
  | .reservedOpE hi => Sys2Proof.Machine.execReservedOpE hi s
  | .reservedOpF hi => Sys2Proof.Machine.execReservedOpF hi s
  | .reservedBit7 low => Sys2Proof.Machine.execReservedBit7 low s
  | .reservedAlg67 low => Sys2Proof.Machine.execReservedAlg67 low s
  | .reservedDecRecvAlg alg => Sys2Proof.Machine.execReservedDecRecvAlg alg s
  | .reservedChanOpenAlg alg => Sys2Proof.Machine.execReservedChanOpenAlg alg s
  | .reservedChanCloseAlg alg => Sys2Proof.Machine.execReservedChanCloseAlg alg s
  | .wireKindRequest => Sys2Proof.Machine.execWireKindRequest s
  | .wireKindResponse => Sys2Proof.Machine.execWireKindResponse s
  | .wireKindInterrupt => Sys2Proof.Machine.execWireKindInterrupt s
  | .wireKindCommError => Sys2Proof.Machine.execWireKindCommError s
  | .wireEcaNone => Sys2Proof.Machine.execWireEcaNone s
  | .wireEcaXor8 => Sys2Proof.Machine.execWireEcaXor8 s
  | .wireEcaChecksum16 => Sys2Proof.Machine.execWireEcaChecksum16 s
  | .wireEcaLrc16 => Sys2Proof.Machine.execWireEcaLrc16 s
  | .wireEcaFletcher16 => Sys2Proof.Machine.execWireEcaFletcher16 s
  | .wireEcaCrc16 => Sys2Proof.Machine.execWireEcaCrc16 s
  | .wireSentinel => Sys2Proof.Machine.execWireSentinel s

end Sys2Proof.Machine
end

