-- ==== Sys2Proof/Machine/Adapters.lean ====
section
/-! DEFINITION. The role adapters' calls as host actions (43_host_ops.md R284 to R289), and what the host does when a
command it waits for is done. -/

namespace Sys2Proof.Machine

/-- The command an adapter's call presents, with the algorithm `P_ADAPTER_ECA` (43_host_ops.md R284 to R289). -/
def callCommand (s : State) (c : AdapterCall) : Event :=
  .command (encode (expandCall s.cfg.adapterEca c)).byte (encode (expandCall s.cfg.adapterEca c)).ports

/-- The host actions of an adapter's call. A send expands to its command alone; `receive()` and `begin()` also wait for
`DONE`, and then read the result, or `STATUS` (43_host_ops.md R284 to R289; log entry 29). -/
def callEvents (s : State) (c : AdapterCall) : List Event :=
  match c with
  | .sendRequest _ _ => [callCommand s c]
  | .sendResponse _ _ => [callCommand s c]
  | .sendInterrupt _ _ => [callCommand s c]
  | .sendError _ _ => [callCommand s c]
  | .receive => [callCommand s c, .awaitDone .readResult]
  | .beginChannel => [callCommand s c, .awaitDone .readStatus]

/-- The registers `receive()` reads after `DONE`: `RES_KIND`, and when it is not `Timeout` also `RES_DEV`,
`RES_COL`, `RES_ECA` and the payload (43_host_ops.md R288). -/
def receiveReads (s : State) : List HostReg :=
  match s.resKind with
  | some .timeout => [.resKind]
  | some _ => [.resKind, .resDev, .resCol, .resEca] ++ (List.range s.resPayload.length).map .resPayload
  | none => [.resKind]

/-- The registers the host reads once the command it waited for is done (43_host_ops.md R288, R289). -/
def followUp (k : AfterDone) (s : State) : List HostReg :=
  match k with
  | .nothing => []
  | .readStatus => [.status]
  | .readResult => receiveReads s

/-- What `begin()` returns: bit 6, `OK`, of the `STATUS` it read (43_host_ops.md R289, 10_state.md R38). -/
def beginResult (status : Nat) : Bool := decide (status / 64 % 2 = 1)

end Sys2Proof.Machine
end

