-- ==== Sys2Proof/Machine/Fetch.lean ====
section
/-! DEFINITION. What the next step of the machine is: the next input of the host or of the channel, or the next
step of the codec. -/

namespace Sys2Proof.Machine

/-- What a step does: it runs an instruction in a state, or it is an input's effect and runs none. -/
inductive Fetched where
  | run (i : Instr) (s : State)
  | input (o : Host.Outcome State Fault Refusal)

/-- The codec's turn, after what the channel supplies before it: a `BUSY` block makes the next step of its command; a
block that is not `BUSY` has nothing to do and waits for the host (70_reset_and_hazards.md R341; log entries 11 and
28). -/
def fetchCodec (s : State) : Fetched :=
  match s.phase with
  | .idle => .input (.next (supplyNext s))
  | .busy i => .run i (supplyNext s)
  | .done => .input (.next (supplyNext s))

/-- The host presents a command word: refused while `BUSY` (10_state.md R43), otherwise decoded and run; a word
outside 30_encoding.md R122 decodes to a reserved row. -/
def fetchCommand (w : Byte) (p : Ports) (s : State) : Fetched :=
  if isBusy s then .input (.next (refuseRequest s)) else .run (decodeCommand w p) s

/-- The host waits for `STATUS.STATE = DONE` as the first of its actions, `es` being the later ones: until then it is
the codec's turn and the wait stays; then the reads it waited to make come first (43_host_ops.md R288, R289; log entry
29). -/
def fetchAwait (k : AfterDone) (es : List Event) (s : State) : Fetched :=
  match s.phase with
  | .idle => fetchCodec s
  | .busy _ => fetchCodec s
  | .done => .input (.next { s with events := (followUp k s).map .read ++ es })

/-- The next input `e`, with `es` the later ones. -/
def fetchEvent (e : Event) (es : List Event) (s : State) : Fetched :=
  match e with
  | .command w p => fetchCommand w p { s with events := es }
  | .writeRto v => .input (.next (writeRto v { s with events := es }))
  | .read r => .input (hostRead r { s with events := es })
  | .arrive bs => .input (.next (arrive bs { s with events := es }))
  | .supply f => .input (.next { s with events := es, supply := f })
  | .reset => .input (.next (resetBlock { s with events := es }))
  | .codec => fetchCodec { s with events := es }
  | .awaitDone k => fetchAwait k es s

/-- The next step: the first of the inputs still to come, or the codec's turn where none is left (00_scope.md R8,
R28; log entry 11). -/
def fetch (s : State) : Fetched :=
  match s.events with
  | [] => fetchCodec s
  | e :: es => fetchEvent e es s

end Sys2Proof.Machine
end

