-- ==== Sys2Proof/Machine/Step.lean ====
section
/-! DEFINITION. One step of the machine, and where a program's next instruction stands. -/

namespace Sys2Proof.Machine

/-- One step: the next input, or the next step of the command in progress (00_scope.md R8, R28). -/
def step (s : State) : Host.Outcome State Fault Refusal :=
  match fetch s with
  | .run i t => exec i t
  | .input o => o

/-- The state in which the next input is the host presenting the command word `w` with all ports zero or empty.
A block that is `BUSY` refuses it (log entry 21). -/
def State.withFetchWord (s : State) (nbits w : Nat) : State :=
  { s with events := .command (BitVec.ofNat 8 (w % 2 ^ nbits)) Ports.zero :: s.events }

end Sys2Proof.Machine
end

