-- ==== Sys2Proof/Safety.lean ====
section
/-! DEFINITION. The terms claims are made in: when the block is ready, what a register group's being unchanged
means, and the invariant of the reachable states. -/

namespace Sys2Proof.Machine

/-- The block is executing the command `i`: `BUSY`, with the operand ports of `i` sampled. -/
def Executing (i : Instr) (s : State) : Prop := s.phase = .busy i

/-- The block accepts a command: `STATUS.STATE` is not `BUSY` (10_state.md R43). -/
def Ready (s : State) : Prop := isBusy s = false

/-- The result registers and the cause hold the same values (10_state.md R42, R45 to R49). -/
def SameResults (s t : State) : Prop :=
  t.resKind = s.resKind ∧ t.resDev = s.resDev ∧ t.resCol = s.resCol ∧ t.resPayload = s.resPayload ∧
  t.resPayloadPresent = s.resPayloadPresent ∧ t.resEca = s.resEca ∧ t.diagCause = s.diagCause

/-- The decoder's internal registers hold the same values, and every byte of `FB` reads the same (10_state.md
section 2). -/
def SameDecoder (s t : State) : Prop :=
  t.st = s.st ∧ t.fbn = s.fbn ∧ t.need = s.need ∧ t.ticks = s.ticks ∧ t.hKind = s.hKind ∧ t.hEca = s.hEca ∧
  t.hDev = s.hDev ∧ t.hLen = s.hLen ∧ t.hCode = s.hCode ∧ t.hChk = s.hChk ∧
  ∀ a, fbByte a t = fbByte a s

/-- The result of a receive that ended without a frame: `Timeout`, every register of the frame `UNWRITTEN`
(60_exceptions.md R300). -/
def TimeoutResult (s : State) : Prop :=
  s.resKind = some .timeout ∧ s.resDev = none ∧ s.resCol = none ∧ s.resPayload = [] ∧
  s.resPayloadPresent = none ∧ s.resEca = none

/-- The result of a receive that ended with a frame (42_decoder.md R247, R257). -/
def FrameResult (k : Kind) (dev col : BitVec 12) (present : Bool) (payload : List Byte) (a : Alg) (s : State) :
    Prop :=
  s.resKind = some (resKindOf k) ∧ s.resDev = some dev ∧ s.resCol = some col ∧ s.resPayload = payload ∧
  s.resPayloadPresent = some present ∧ s.resEca = some a

/-- `DIAG_CAUSE` as a completed receive leaves it: `c` where the register exists, its old content where it does
not (10_state.md R42). -/
def causeAfter (s : State) (c : Cause) : Option Cause := if s.cfg.hasDiagCause then some c else s.diagCause

/-- The receive of state `s` has ended in state `t` with the result `Timeout` and the cause `c`. -/
def RejectedWith (c : Cause) (s t : State) : Prop :=
  t.phase = .done ∧ t.ok = false ∧ t.st = .idle ∧ TimeoutResult t ∧ t.diagCause = causeAfter s c

/-- The machine goes from `s` to `t` in `n` steps without a stop. -/
def Reaches (n : Nat) (s t : State) : Prop := Host.Core.run Sys2Proof.core n s = .next t

/-- The command in progress is a legal one and `STATUS.OP` names it. -/
def CommandInv (s : State) : Prop :=
  match s.phase with
  | .idle => True
  | .busy i => i.isCommand = true ∧ i.wf = true ∧ s.op = opcode i
  | .done => True

/-- The parameters are legal, and `CFG_RTO` fits its width (10_state.md R39). -/
def ConfigInv (s : State) : Prop := s.cfg.wf = true ∧ s.cfgRto < 2 ^ s.cfg.rtoWidth

/-- `FB` is canonical, has no byte past 4109, and `FBN` counts no more than it holds (10_state.md R32, R33). -/
def BufferInv (s : State) : Prop :=
  Memory.wf s.fb = true ∧ (∀ c ∈ s.fb, c.1 < Config.frameMax) ∧ s.fbn ≤ Config.frameMax

/-- A kind character that leads to the long format. -/
def LongChar (c : Byte) : Prop := c = 0x3F ∨ c = 0x23

/-- A kind character that leads to the short format. -/
def ShortChar (c : Byte) : Prop := c = 0x21 ∨ c = 0x7E

/-- `ST` and the registers that go with it: a receive is in progress exactly while `ST` is not `D_IDLE`; each wait
has its place in the frame, its byte count, and has not slept more than `CFG_RTO + 1` ticks (10_state.md R30, R32,
R34, R35). -/
def ReceiveInv (s : State) : Prop :=
  match s.st with
  | .idle => ¬ Executing .decRecv s
  | .scan => Executing .decRecv s ∧ s.fbn = 0 ∧ s.ticks ≤ s.cfgRto + 1
  | .waitHdr => Executing .decRecv s ∧ s.fbn = 1 ∧ s.need = 5 ∧ s.ticks ≤ s.cfgRto + 1
  | .waitLen => Executing .decRecv s ∧ s.fbn = 6 ∧ s.need = 3 ∧ s.ticks ≤ s.cfgRto + 1 ∧ LongChar s.hKind
  | .waitBody =>
    Executing .decRecv s ∧ s.fbn = 9 ∧ s.need = s.hLen.toNat + 6 ∧ s.ticks ≤ s.cfgRto + 1 ∧ LongChar s.hKind
  | .waitShort => Executing .decRecv s ∧ s.fbn = 6 ∧ s.need = 8 ∧ s.ticks ≤ s.cfgRto + 1 ∧ ShortChar s.hKind

/-- The result registers are `UNWRITTEN` together, hold a frame together, or hold a `Timeout`; the cause agrees
with them (10_state.md R42, R45 to R50). -/
def ResultInv (s : State) : Prop :=
  (s.cfg.hasDiagCause = false → s.diagCause = none) ∧
  match s.resKind with
  | none =>
    s.resDev = none ∧ s.resCol = none ∧ s.resPayload = [] ∧ s.resPayloadPresent = none ∧ s.resEca = none ∧
    s.diagCause = none
  | some .timeout =>
    TimeoutResult s ∧ (s.cfg.hasDiagCause = true → ∃ c, s.diagCause = some c ∧ c ≠ .accepted)
  | some .request =>
    s.resDev.isSome ∧ s.resCol = some (BitVec.ofNat 12 s.resPayload.length) ∧ s.resPayload.length ≤ 4095 ∧
    s.resPayloadPresent = some true ∧ s.resEca.isSome ∧ (s.cfg.hasDiagCause = true → s.diagCause = some .accepted)
  | some .response =>
    s.resDev.isSome ∧ s.resCol = some (BitVec.ofNat 12 s.resPayload.length) ∧ s.resPayload.length ≤ 4095 ∧
    s.resPayloadPresent = some true ∧ s.resEca.isSome ∧ (s.cfg.hasDiagCause = true → s.diagCause = some .accepted)
  | some .interrupt =>
    s.resDev.isSome ∧ (∃ c : Byte, s.resCol = some (c.setWidth 12)) ∧ s.resPayload = [] ∧
    s.resPayloadPresent = some false ∧ s.resEca.isSome ∧ (s.cfg.hasDiagCause = true → s.diagCause = some .accepted)
  | some .commError =>
    s.resDev.isSome ∧ (∃ c : Byte, s.resCol = some (c.setWidth 12)) ∧ s.resPayload = [] ∧
    s.resPayloadPresent = some false ∧ s.resEca.isSome ∧ (s.cfg.hasDiagCause = true → s.diagCause = some .accepted)

/-- The invariant of the reachable states. -/
structure State.Inv (s : State) : Prop where
  command : CommandInv s
  config : ConfigInv s
  buffer : BufferInv s
  receive : ReceiveInv s
  results : ResultInv s

end Sys2Proof.Machine
end

