-- ==== Sys2Proof/Certificates/Slice0/Obligations.lean ====
section
/-! DEFINITION. The statements for the provers. Each formalises what its docstring cites; a word of the spec is read
with the spec's own numbers wherever a number is what the rule says. -/

open Sys2Proof Sys2Proof.Machine

/-! ## Encoding -/

/-- Decoding an encoded well-formed instruction gives it back, every operand at every value (30_encoding.md R92, R93,
R120, R121, R122; log entries 12 and 13). -/
def Obligations.DecodeOfEncodeIsTheInstruction : Prop :=
  ∀ i : Instr, i.wf = true → decode (encode i).slot (encode i).byte (encode i).ports = .ok i

/-- Every command word decodes to one instruction, whose encoding is that word: no bit of a word is dropped
(30_encoding.md R120, R122). -/
def Obligations.EncodeOfDecodeIsTheWord : Prop :=
  ∀ (w : Byte) (p : Ports), (encode (decodeCommand w p)).slot = .command ∧ (encode (decodeCommand w p)).byte = w

/-- Command decode and refusal (30_encoding.md R122), with the bounds of the ports (20_memory.md R75, R76): a legal
word with legal ports, presented to a block that is not `BUSY`, is accepted; any other is refused, which changes no
register and sets the refusal mark. -/
def Obligations.PresentedCommandIsAcceptedOrRefused : Prop :=
  ∀ (s : State) (w : Byte) (p : Ports) (es : List Event), s.events = .command w p :: es →
    let op := w.toNat % 16
    let alg := w.toNat / 16 % 8
    let legal := w.toNat < 128 ∧
      ((op ∈ [1, 2, 3, 4, 6] ∧ alg ≤ 5) ∨ (op ∈ [5, 7, 8] ∧ alg = 0))
    let ports := (op ∈ [1, 2] → p.pbuf.length ≤ 4096) ∧
      (op = 6 → p.dbuf.length ≤ 4110 ∧ p.nIn ≤ p.dbuf.length)
    (legal → ports → Ready s → ∃ t, step s = .next t ∧ t.phase = .busy (decodeCommand w p) ∧ t.op.toNat = op ∧
      t.refusalMark = s.refusalMark) ∧
    (¬(legal ∧ ports ∧ Ready s) → step s = .next { s with events := es, refusalMark := true })

/-- Words written out from 30_encoding.md R92, R93 and R120, and the instructions they stand for. -/
def Obligations.WordsDecodeToTheirInstructions : Prop :=
  ∀ p : Ports,
    decodeCommand 0b01010001 p = .encReq .crc16 p.devIn p.lreqIn p.pbuf ∧
    decodeCommand 0b00110100 p = .encCep .lrc16 p.devIn p.codeIn ∧
    decodeCommand 0b00000101 p = .decRecv ∧
    decodeCommand 0b01000110 p = .chkCompute .fletcher16 p.dbuf p.nIn ∧
    decodeCommand 0b00001000 p = .chanCloseCmd ∧
    decodeCommand 0b00010101 p = .reservedDecRecvAlg 1 ∧
    decode .frameByte1 0b01111110 p = .ok .wireKindCommError ∧
    decode .frameByte2 0b00110101 p = .ok .wireEcaCrc16 ∧
    decode .frameByte0 0b00100001 p = .ok .wireSentinel

/-- ECA parsing (30_encoding.md R103): byte 2 is a valid ECA exactly for 0x30 to 0x35, and the ordinal is the byte
less 0x30. -/
def Obligations.EcaDigitsAreExactlyZeroToFive : Prop :=
  ∀ (c : Byte) (p : Ports),
    (0x30 ≤ c.toNat ∧ c.toNat ≤ 0x35 →
      ∃ a, decode .frameByte2 c p = .ok (wireEca a) ∧ (algOrdinal a).toNat = c.toNat - 0x30) ∧
    (¬(0x30 ≤ c.toNat ∧ c.toNat ≤ 0x35) → decode .frameByte2 c p = .error .badEca)

/-- The packet-kind demux (30_encoding.md R92): the four kind characters, and no other byte is a kind. -/
def Obligations.KindCharactersAreExactlyFour : Prop :=
  ∀ (c : Byte) (p : Ports),
    (decode .frameByte1 c p = .ok .wireKindRequest ↔ c = 0x3F) ∧
    (decode .frameByte1 c p = .ok .wireKindResponse ↔ c = 0x23) ∧
    (decode .frameByte1 c p = .ok .wireKindInterrupt ↔ c = 0x21) ∧
    (decode .frameByte1 c p = .ok .wireKindCommError ↔ c = 0x7E) ∧
    (decode .frameByte1 c p = .error .badKind ↔ c ≠ 0x3F ∧ c ≠ 0x23 ∧ c ≠ 0x21 ∧ c ≠ 0x7E)

/-! ## Operand forms -/

/-- A field rendered by `hexN` has its width, holds only uppercase hexadecimal digits, and parses back to its value
(30_encoding.md R100, R101, R102). -/
def Obligations.HexFieldsParseBack : Prop :=
  ∀ (lowerOk : Bool) (n v : Nat), v < 16 ^ n →
    (hexN n v).length = n ∧
    (∀ c ∈ hexN n v, (0x30 ≤ c.toNat ∧ c.toNat ≤ 0x39) ∨ (0x41 ≤ c.toNat ∧ c.toNat ≤ 0x46)) ∧
    parseHex lowerOk (hexN n v) = some v

/-- The hex digits and their values (30_encoding.md R101), and parsing (R102): a string parses exactly when each of its
characters is a hex digit, and then its value is built digit by digit, the most significant first. -/
def Obligations.ParseHexReadsMostSignificantDigitFirst : Prop :=
  ∀ (lowerOk : Bool) (s : List Byte) (c : Byte),
    (0x30 ≤ c.toNat ∧ c.toNat ≤ 0x39 → hexValue lowerOk c = some (c.toNat - 0x30)) ∧
    (0x41 ≤ c.toNat ∧ c.toNat ≤ 0x46 → hexValue lowerOk c = some (c.toNat - 0x41 + 10)) ∧
    (lowerOk = true → 0x61 ≤ c.toNat ∧ c.toNat ≤ 0x66 → hexValue lowerOk c = some (c.toNat - 0x61 + 10)) ∧
    (hexValue lowerOk c = none ↔ ¬((0x30 ≤ c.toNat ∧ c.toNat ≤ 0x39) ∨ (0x41 ≤ c.toNat ∧ c.toNat ≤ 0x46) ∨
      (lowerOk = true ∧ 0x61 ≤ c.toNat ∧ c.toNat ≤ 0x66))) ∧
    parseHex lowerOk [] = some 0 ∧
    (parseHex lowerOk s = none ↔ ∃ d ∈ s, hexValue lowerOk d = none) ∧
    (∀ d v, parseHex lowerOk s = some v → hexValue lowerOk c = some d →
      parseHex lowerOk (s ++ [c]) = some (16 * v + d)) ∧
    (∀ v, parseHex lowerOk s = some v → v < 16 ^ s.length)

/-- What the encoder renders always fits its field: a fitted value is below the field's bound, a value that fits is
kept, one that does not is reduced to the remainder (TRUNCATE) or replaced by the bound (SATURATE), and the effective
length is at most 4095 and at most the buffer's length (30_encoding.md R100, R105; 41_encoder.md R180, R181, R185). -/
def Obligations.FittedValuesFitTheirFields : Prop :=
  ∀ (o : FieldOverflow) (v : Nat) (lreq : Word) (pbuf : List Byte),
    fit o 12 v < 16 ^ 3 ∧ fit o 8 v < 16 ^ 2 ∧ (v < 4096 → fit o 12 v = v) ∧ (v < 256 → fit o 8 v = v) ∧
    fit .truncate 12 v = v % 4096 ∧ (4096 ≤ v → fit .saturate 12 v = 4095) ∧
    fit .truncate 8 v = v % 256 ∧ (256 ≤ v → fit .saturate 8 v = 255) ∧
    effectiveLength o lreq pbuf ≤ 4095 ∧ effectiveLength o lreq pbuf ≤ pbuf.length

/-! ## Checksums -/

/-- What each algorithm detects (40_checksum.md R154): a change of one covered byte changes the field under Xor8,
Checksum16, Lrc16 and Crc16; under Fletcher16 (unsigned) unless the pair is 0x00 and 0xFF; never under None. -/
def Obligations.SingleByteChangesAreDetected : Prop :=
  ∀ (cfg : Params) (p q : List Byte) (b b' : Byte), b ≠ b' →
    field16 (compute cfg .xor8 (p ++ b :: q)) ≠ field16 (compute cfg .xor8 (p ++ b' :: q)) ∧
    field16 (compute cfg .checksum16 (p ++ b :: q)) ≠ field16 (compute cfg .checksum16 (p ++ b' :: q)) ∧
    field16 (compute cfg .lrc16 (p ++ b :: q)) ≠ field16 (compute cfg .lrc16 (p ++ b' :: q)) ∧
    field16 (compute cfg .crc16 (p ++ b :: q)) ≠ field16 (compute cfg .crc16 (p ++ b' :: q)) ∧
    (cfg.fletcher16Signed = false →
      (field16 (compute cfg .fletcher16 (p ++ b :: q)) = field16 (compute cfg .fletcher16 (p ++ b' :: q)) ↔
        (b = 0x00 ∧ b' = 0xFF) ∨ (b = 0xFF ∧ b' = 0x00))) ∧
    field16 (compute cfg .none (p ++ b :: q)) = field16 (compute cfg .none (p ++ b' :: q))

/-- The range of each algorithm's result (40_checksum.md R155) and that only Checksum16 can leave the 16-bit field
(R145). Fletcher16's bound is that of unsigned bytes. -/
def Obligations.CheckValuesStayInTheirRanges : Prop :=
  ∀ (cfg : Params) (s : List Byte),
    compute cfg .none s = 0 ∧
    (compute cfg .xor8 s).toNat ≤ 255 ∧
    (s.length ≤ 4110 →
      -526080 ≤ (compute cfg .checksum16 s).toInt ∧ (compute cfg .checksum16 s).toInt ≤ 526080) ∧
    (compute cfg .lrc16 s).toNat ≤ 65535 ∧
    (cfg.fletcher16Signed = false →
      (compute cfg .fletcher16 s).toNat / 256 ≤ 254 ∧ (compute cfg .fletcher16 s).toNat % 256 ≤ 254) ∧
    (compute cfg .crc16 s).toNat ≤ 65535 ∧
    (∀ a, a ≠ .checksum16 → (field16 (compute cfg a s)).toNat = (compute cfg a s).toNat)

/-- What the five algorithms compute (40_checksum.md R143, R144, R146, R147, R149, R150). Bit `i` of Xor8 is the parity of
the bytes that have it set. Checksum16 is the sum of signed bytes in 32-bit two's complement, Lrc16 the negated sum modulo
65536. Fletcher16, on unsigned bytes, has the sum modulo 255 in its low byte and the sum of the sums of all prefixes
modulo 255 in its high byte. Crc16 starts at 0xFFFF, takes a byte in by eight shifts with 0xA001, and gives 0x4B37 for
`123456789`; the swap exchanges its two bytes. -/
def Obligations.CheckAlgorithmsComputeTheSpecsValues : Prop :=
  ∀ (cfg : Params) (s : List Byte) (b : Byte),
    let shift := fun c : BitVec 16 => if c.getLsbD 0 then (c >>> 1) ^^^ 0xA001 else c >>> 1
    (compute cfg .xor8 s).toNat < 256 ∧
    (∀ i < 8, ((compute cfg .xor8 s).getLsbD i = true ↔ (s.countP fun b => b.getLsbD i) % 2 = 1)) ∧
    compute cfg .checksum16 s = BitVec.ofInt 32 (s.map BitVec.toInt).sum ∧
    (cfg.lrc16Signed = false →
      ((compute cfg .lrc16 s).toNat : Int) = (-(s.map fun b => (b.toNat : Int)).sum) % 65536) ∧
    (cfg.lrc16Signed = true →
      ((compute cfg .lrc16 s).toNat : Int) = (-(s.map BitVec.toInt).sum) % 65536) ∧
    (cfg.fletcher16Signed = false ∨ (∀ c ∈ s, c.toNat < 0x80) →
      (compute cfg .fletcher16 s).toNat =
        256 * (((List.range (s.length + 1)).map fun n => ((s.take n).map BitVec.toNat).sum).sum % 255) +
          (s.map BitVec.toNat).sum % 255) ∧
    (cfg.crc16FinalSwap = false →
      (compute cfg .crc16 []).toNat = 0xFFFF ∧
      (compute cfg .crc16 (s ++ [b])).toNat =
        (Nat.repeat shift 8 (field16 (compute cfg .crc16 s) ^^^ b.setWidth 16)).toNat ∧
      compute cfg .crc16 [0x31, 0x32, 0x33, 0x34, 0x35, 0x36, 0x37, 0x38, 0x39] = 0x4B37) ∧
    (let c := (compute { cfg with crc16FinalSwap := false } .crc16 s).toNat;
      (compute { cfg with crc16FinalSwap := true } .crc16 s).toNat = 256 * (c % 256) + c / 256)

/-- The empty string: the seed of Crc16, and 0 under every other algorithm (40_checksum.md R141 to R149, 43_host_ops.md
R282). -/
def Obligations.EmptyStringGivesTheInitialValue : Prop :=
  ∀ (cfg : Params) (a : Alg), compute cfg a [] = if a = .crc16 then 0xFFFF else 0

/-- The verification predicate (40_checksum.md R152). -/
def Obligations.CheckIsAcceptedExactlyOnItsField : Prop :=
  ∀ (cfg : Params) (a : Alg) (cov : List Byte) (chk : BitVec 16),
    (a = .none → checkOk cfg a cov chk = true) ∧
    (a ≠ .none → ¬(a = .checksum16 ∧ cfg.cs16Compare = .full) →
      (checkOk cfg a cov chk = true ↔ (compute cfg a cov).toNat % 65536 = chk.toNat)) ∧
    (a = .checksum16 → cfg.cs16Compare = .full →
      (checkOk cfg a cov chk = true ↔ (compute cfg a cov).toInt = chk.toNat) ∧
      ((compute cfg a cov).toInt < 0 ∨ 0xFFFF < (compute cfg a cov).toInt → checkOk cfg a cov chk = false))

/-! ## Host commands -/

/-- One command at a time (10_state.md R43): the accept step, and the refusals while `BUSY`, which set the refusal mark and
leave the command in progress as it is (60_exceptions.md R314). The accept step of `DEC_RECV` also starts the scan
(42_decoder.md R220). -/
def Obligations.OneCommandAtATime : Prop :=
  (∀ (i : Instr) (s : State), i.isCommand = true → i.wf = true → Ready s → i ≠ .decRecv →
    exec i s = .next { s with phase := .busy i, op := opcode i }) ∧
  (∀ s : State, Ready s →
    exec .decRecv s = .next { s with phase := .busy .decRecv, op := 5, fbn := 0, ticks := 0, st := .scan }) ∧
  (∀ (s : State) (w : Byte) (p : Ports) (es : List Event), s.events = .command w p :: es → ¬Ready s →
    step s = .next { s with events := es, refusalMark := true }) ∧
  (∀ (s : State) (v : Nat) (es : List Event), s.events = .writeRto v :: es → ¬Ready s →
    step s = .next { s with events := es, refusalMark := true })

/-- `ENC_REQ` and `ENC_RSP` on an open channel: the effective length and the payload sent (41_encoder.md R181), the
frame (R182, R183, R184), and nothing else changed. -/
def Obligations.LongEncodersWriteTheirFrame : Prop :=
  ∀ (s : State) (alg : Alg) (dev lreq : Word) (pbuf : List Byte), pbuf.length ≤ 4096 → s.chanOpen = true →
    let o := s.cfg.fieldOverflow
    let l := min (fit o 12 lreq.toNat) pbuf.length
    let cov := fun k : Byte => [0x21, k, ecaChar alg] ++ hexN 3 (fit o 12 dev.toNat) ++ hexN 3 l ++ pbuf.take l
    let written := fun k : Byte =>
      { s with
        phase := .done
        ok := true
        checkOut := some (compute s.cfg alg (cov k))
        tx := s.tx ++ (cov k ++ hexN 4 ((compute s.cfg alg (cov k)).toNat % 65536) ++ [0x0D, 0x0A]) }
    (Executing (.encReq alg dev lreq pbuf) s → exec (.encReq alg dev lreq pbuf) s = .next (written 0x3F)) ∧
    (Executing (.encRsp alg dev lreq pbuf) s → exec (.encRsp alg dev lreq pbuf) s = .next (written 0x23))

/-- `ENC_SIP` and `ENC_CEP` on an open channel: the frame (41_encoder.md R182, R185, R186), and nothing else
changed. -/
def Obligations.ShortEncodersWriteTheirFrame : Prop :=
  ∀ (s : State) (alg : Alg) (dev code : Word), s.chanOpen = true →
    let o := s.cfg.fieldOverflow
    let cov := fun k : Byte => [0x21, k, ecaChar alg] ++ hexN 3 (fit o 12 dev.toNat) ++ hexN 2 (fit o 8 code.toNat)
    let written := fun k : Byte =>
      { s with
        phase := .done
        ok := true
        checkOut := some (compute s.cfg alg (cov k))
        tx := s.tx ++ (cov k ++ hexN 4 ((compute s.cfg alg (cov k)).toNat % 65536) ++ [0x0D, 0x0A]) }
    (Executing (.encSip alg dev code) s → exec (.encSip alg dev code) s = .next (written 0x21)) ∧
    (Executing (.encCep alg dev code) s → exec (.encCep alg dev code) s = .next (written 0x7E))

/-- `ChannelFailure` (60_exceptions.md R312): exactly when the channel is closed at the encode's step; the command
completes with `OK = 0` and its own `OP`, and nothing is written. -/
def Obligations.EncodersFailExactlyOnAClosedChannel : Prop :=
  ∀ (s : State) (i : Instr), i.wf = true → Executing i s →
    (∃ alg dev x pbuf, i = .encReq alg dev x pbuf ∨ i = .encRsp alg dev x pbuf ∨ i = .encSip alg dev x ∨
      i = .encCep alg dev x) →
    (s.chanOpen = false → exec i s = .next { s with phase := .done, ok := false }) ∧
    (∀ t, exec i s = .next t → (t.ok = false ↔ s.chanOpen = false)) ∧
    (CommandInv s → ∀ t, exec i s = .next t → t.op = opcode i)

/-- Ports out of their bounds are refused (20_memory.md R75, R76; 60_exceptions.md R314): the command is not accepted, no
register changes, the refusal mark is set. -/
def Obligations.OversizedPortsAreRefused : Prop :=
  ∀ (s : State) (alg : Alg) (dev lreq : Word) (buf : List Byte) (n : Nat) (i : Instr),
    ((i = .encReq alg dev lreq buf ∨ i = .encRsp alg dev lreq buf) ∧ 4096 < buf.length) ∨
      (i = .chkCompute alg buf n ∧ (4110 < buf.length ∨ buf.length < n)) →
    ¬Executing i s → exec i s = .next { s with refusalMark := true }

/-- The encoder keeps no state (41_encoder.md R187): an encode reads only its operands, `CHAN_OPEN` and the
parameters, and writes only `TX`, `CHECK_OUT` and `STATUS`. -/
def Obligations.EncodersReadAndWriteNothingElse : Prop :=
  ∀ (s s' t t' : State) (i : Instr),
    (∃ alg dev x pbuf, i = .encReq alg dev x pbuf ∨ i = .encRsp alg dev x pbuf ∨ i = .encSip alg dev x ∨
      i = .encCep alg dev x) →
    Executing i s → Executing i s' → exec i s = .next t → exec i s' = .next t' →
    s.cfg = s'.cfg → s.chanOpen = s'.chanOpen →
    (∃ frame, t.tx = s.tx ++ frame ∧ t'.tx = s'.tx ++ frame) ∧ t.ok = t'.ok ∧
    (s.chanOpen = true → t.checkOut = t'.checkOut) ∧ (s.chanOpen = false → t.checkOut = s.checkOut) ∧
    SameDecoder s t ∧ SameResults s t ∧ t.rx = s.rx ∧ t.chanOpen = s.chanOpen ∧ t.cfgRto = s.cfgRto ∧ t.op = s.op ∧
    t.phase = .done ∧ t.refusalMark = s.refusalMark

/-- `CHK_COMPUTE` (43_host_ops.md R282): the check value of the first `N_IN` bytes, and nothing else changed. -/
def Obligations.ChkComputeWritesTheCheckValue : Prop :=
  ∀ (s : State) (alg : Alg) (dbuf : List Byte) (n : Nat), dbuf.length ≤ 4110 → n ≤ dbuf.length →
    Executing (.chkCompute alg dbuf n) s →
    exec (.chkCompute alg dbuf n) s =
      .next { s with phase := .done, ok := true, checkOut := some (compute s.cfg alg (dbuf.take n)) }

/-- `CHAN_OPEN_CMD` (43_host_ops.md R280): an open channel is left alone; a closed one gives the channel's answer,
either of which is possible, to `CHAN_OPEN` and `STATUS.OK`. -/
def Obligations.ChanOpenTakesTheChannelsAnswer : Prop :=
  ∀ s : State, Executing .chanOpenCmd s →
    (s.chanOpen = true → exec .chanOpenCmd s = .next { s with phase := .done, ok := true }) ∧
    (s.chanOpen = false → ∃ (r : Bool) (tape : List Nat) (n : Nat), exec .chanOpenCmd s =
      .next { s with phase := .done, ok := r, chanOpen := r, tape := tape, drawCount := n }) ∧
    (s.chanOpen = false → ∀ r : Bool, ∃ (tape : List Nat) (t : State),
      exec .chanOpenCmd { s with tape := tape } = .next t ∧ t.chanOpen = r ∧ t.ok = r)

/-- `CHAN_CLOSE_CMD` (43_host_ops.md R281, 20_memory.md R65): the channel is closed, the receive stream is unchanged or
empty, either of which is possible; closing a closed channel has no further effect (log entry 19). -/
def Obligations.ChanCloseClosesAndMayDropTheStream : Prop :=
  ∀ s : State, Executing .chanCloseCmd s →
    (s.chanOpen = true → ∃ (rx : List Byte) (tape : List Nat) (n : Nat), (rx = s.rx ∨ rx = []) ∧
      exec .chanCloseCmd s =
        .next { s with phase := .done, ok := true, chanOpen := false, rx := rx, tape := tape, drawCount := n }) ∧
    (s.chanOpen = true → ∀ keep : Bool, ∃ (tape : List Nat) (t : State),
      exec .chanCloseCmd { s with tape := tape } = .next t ∧ t.rx = if keep then s.rx else []) ∧
    (s.chanOpen = false → exec .chanCloseCmd s = .next { s with phase := .done, ok := true })

/-- The reserved command words are refused in every state (30_encoding.md R122, 60_exceptions.md R314): no register
changes, and the refusal mark is set. -/
def Obligations.ReservedWordsAreRefused : Prop :=
  ∀ (s : State) (hi : BitVec 4) (low7 : BitVec 7) (low5 : BitVec 5) (alg : BitVec 3),
    let refused := Host.Outcome.next { s with refusalMark := true }
    exec (.reservedOp0 hi) s = refused ∧ exec (.reservedOp9 hi) s = refused ∧ exec (.reservedOpA hi) s = refused ∧
    exec (.reservedOpB hi) s = refused ∧ exec (.reservedOpC hi) s = refused ∧ exec (.reservedOpD hi) s = refused ∧
    exec (.reservedOpE hi) s = refused ∧ exec (.reservedOpF hi) s = refused ∧ exec (.reservedBit7 low7) s = refused ∧
    exec (.reservedAlg67 low5) s = refused ∧ exec (.reservedDecRecvAlg alg) s = refused ∧
    exec (.reservedChanOpenAlg alg) s = refused ∧ exec (.reservedChanCloseAlg alg) s = refused

/-! ## Channel reads -/

/-- `ChanRead(n)` (20_memory.md R62): with `P_CHAN_READ_FULL` it returns and removes the first `min(n, available)`
bytes; without it the count is a draw, and every count up to that is possible; nothing else of the block changes. -/
def Obligations.ChanReadRemovesWhatItReturns : Prop :=
  ∀ (s : State) (n : Nat), 1 ≤ n →
    let m := min n (if s.chanOpen then s.rx.length else 0)
    (s.cfg.chanReadFull = true → chanRead n s = (s.rx.take m, { s with rx := s.rx.drop m })) ∧
    (s.cfg.chanReadFull = false →
      (∃ k ≤ m, ∃ (tape : List Nat) (c : Nat),
        chanRead n s = (s.rx.take k, { s with rx := s.rx.drop k, tape := tape, drawCount := c })) ∧
      ∀ k ≤ m, ∃ tape : List Nat, (chanRead n { s with tape := tape }).1 = s.rx.take k ∧
        (chanRead n { s with tape := tape }).2.rx = s.rx.drop k)

/-! ## The receive -/

/-- The scan step (42_decoder.md R230): a read of nothing ends the receive with `NO_DATA`, the sentinel starts the
header wait, any other byte is dropped. -/
def Obligations.ScanStepFindsTheSentinel : Prop :=
  ∀ s : State, Executing .decRecv s → s.st = .scan →
    let u := (chanRead 1 s).2
    ((chanRead 1 s).1 = [] →
      ∃ t, exec .decRecv s = .next t ∧ RejectedWith .noData u t ∧ SameDecoder { u with st := .idle } t ∧ t.rx = u.rx) ∧
    (∀ bs, (chanRead 1 s).1 = 0x21 :: bs → exec .decRecv s =
      .next { u with
        fb := Memory.writeBytes u.fb 0 [0x21]
        fbn := 1
        st := .waitHdr
        need := 5
        ticks := if s.cfg.tickScope = .perWait then 0 else s.ticks }) ∧
    (∀ b bs, (chanRead 1 s).1 = b :: bs → b ≠ 0x21 → exec .decRecv s = .next u)

/-- The poll (42_decoder.md R225): the byte test first, then the budget test, then one tick of sleep; a short read
ends the receive, a whole one goes to `FB` and is processed. -/
def Obligations.PollTestsBytesThenBudgetThenSleeps : Prop :=
  ∀ (s : State) (w : DecState) (process : State → State),
    (w, process) ∈ [(DecState.waitHdr, processHeader), (.waitLen, processLength), (.waitBody, processBody),
      (.waitShort, processShort)] →
    Executing .decRecv s → s.st = w → s.fbn + s.need ≤ 4110 →
    let r := chanRead s.need s
    let u := { r.2 with fb := Memory.writeBytes s.fb s.fbn r.1, fbn := s.fbn + r.1.length }
    (s.need ≤ chanAvail s → r.1.length < s.need →
      ∃ t, exec .decRecv s = .next t ∧ RejectedWith .shortRead u t ∧ SameDecoder { u with st := .idle } t) ∧
    (s.need ≤ chanAvail s → s.need ≤ r.1.length → exec .decRecv s = .next (process u)) ∧
    (chanAvail s < s.need → s.cfgRto < s.ticks →
      ∃ t, exec .decRecv s = .next t ∧ RejectedWith .waitExpired s t ∧ SameDecoder { s with st := .idle } t ∧
        t.rx = s.rx) ∧
    (chanAvail s < s.need → s.ticks ≤ s.cfgRto → exec .decRecv s = .next { s with ticks := s.ticks + 1 })

/-- The header step (42_decoder.md R233, R235) with its checks in the order ECA, device id, kind (R234): six bytes of
the frame are consumed in every case. -/
def Obligations.HeaderIsCheckedInOrder : Prop :=
  ∀ (s : State) (k e d1 d2 d3 : Byte) (rest : List Byte), Executing .decRecv s → s.st = .waitHdr → s.fbn = 1 →
    s.need = 5 → Memory.wf s.fb = true → s.chanOpen = true → s.cfg.chanReadFull = true →
    s.rx = k :: e :: d1 :: d2 :: d3 :: rest →
    ∃ t, exec .decRecv s = .next t ∧ t.rx = rest ∧ t.fbn = 6 ∧ t.hKind = k ∧ t.tx = s.tx ∧
      t.checkOut = s.checkOut ∧ t.op = s.op ∧
      (∀ i < 6, fbByte i t = [fbByte 0 s, k, e, d1, d2, d3].getD i 0) ∧
      (¬(0x30 ≤ e.toNat ∧ e.toNat ≤ 0x35) → RejectedWith .badEca s t) ∧
      (∀ a, e = ecaChar a → parseHex s.cfg.hexLowerOk [d1, d2, d3] = none → RejectedWith .badHex s t) ∧
      (∀ a v, e = ecaChar a → parseHex s.cfg.hexLowerOk [d1, d2, d3] = some v →
        ¬(LongChar k ∨ ShortChar k) → RejectedWith .badKind s t) ∧
      (∀ a v, e = ecaChar a → parseHex s.cfg.hexLowerOk [d1, d2, d3] = some v → LongChar k ∨ ShortChar k →
        t.phase = s.phase ∧ t.ok = s.ok ∧ SameResults s t ∧ t.hEca = a ∧ t.hDev.toNat = v ∧
        (LongChar k → t.st = .waitLen ∧ t.need = 3) ∧ (ShortChar k → t.st = .waitShort ∧ t.need = 8) ∧
        t.ticks = if s.cfg.tickScope = .perWait then 0 else s.ticks)

/-- The decoder runs the wire bytes as the instructions they are (30_encoding.md R91, R92, R93; log entry 12): the
sentinel in the scan, and in an accepted header the ECA digit and then the kind character. -/
def Obligations.DecoderRunsTheWireBytes : Prop :=
  (∀ (s : State) (bs : List Byte), Executing .decRecv s → s.st = .scan → (chanRead 1 s).1 = 0x21 :: bs →
    exec .decRecv s = exec .wireSentinel (chanRead 1 s).2) ∧
  (∀ (s : State) (a : Alg) (k : Kind) (d1 d2 d3 : Byte) (v : Nat) (rest : List Byte), Executing .decRecv s →
    s.st = .waitHdr → s.fbn = 1 → s.need = 5 → Memory.wf s.fb = true → s.chanOpen = true →
    s.cfg.chanReadFull = true → s.rx = kindChar k :: ecaChar a :: d1 :: d2 :: d3 :: rest →
    parseHex s.cfg.hexLowerOk [d1, d2, d3] = some v →
    ∃ u, exec (wireEca a)
        { s with
          rx := rest
          fb := Memory.writeBytes s.fb 1 [kindChar k, ecaChar a, d1, d2, d3]
          fbn := 6
          hKind := kindChar k } = .next u ∧
      exec .decRecv s = exec (wireKind k) { u with hDev := BitVec.ofNat 12 v })

/-- The length step (42_decoder.md R240). -/
def Obligations.LengthFieldSetsTheBodyWait : Prop :=
  ∀ (s : State) (l1 l2 l3 : Byte) (rest : List Byte), Executing .decRecv s → s.st = .waitLen → s.fbn = 6 →
    s.need = 3 → Memory.wf s.fb = true → s.chanOpen = true → s.cfg.chanReadFull = true →
    s.rx = l1 :: l2 :: l3 :: rest →
    ∃ t, exec .decRecv s = .next t ∧ t.rx = rest ∧ t.fbn = 9 ∧ t.hKind = s.hKind ∧ t.hEca = s.hEca ∧
      t.hDev = s.hDev ∧ t.tx = s.tx ∧ t.checkOut = s.checkOut ∧
      (∀ i < 9, fbByte i t = [fbByte 0 s, fbByte 1 s, fbByte 2 s, fbByte 3 s, fbByte 4 s, fbByte 5 s, l1, l2, l3].getD i 0) ∧
      (parseHex s.cfg.hexLowerOk [l1, l2, l3] = none → RejectedWith .badHex s t) ∧
      (∀ v, parseHex s.cfg.hexLowerOk [l1, l2, l3] = some v →
        t.phase = s.phase ∧ SameResults s t ∧ t.hLen.toNat = v ∧ t.st = .waitBody ∧ t.need = v + 6 ∧
        t.ticks = if s.cfg.tickScope = .perWait then 0 else s.ticks)

/-- The body step of a Request or Response (42_decoder.md R245, R247): check field, integrity over every byte from the
sentinel to the end of the payload, terminator, acceptance. -/
def Obligations.LongBodyIsValidatedThenAccepted : Prop :=
  ∀ (s : State) (payload chk : List Byte) (cr lf : Byte) (rest : List Byte), Executing .decRecv s →
    s.st = .waitBody → s.fbn = 9 → s.need = s.hLen.toNat + 6 → Memory.wf s.fb = true → s.chanOpen = true →
    s.cfg.chanReadFull = true → payload.length = s.hLen.toNat → chk.length = 4 →
    s.rx = payload ++ chk ++ cr :: lf :: rest →
    let parsed := s.hEca ≠ .none ∨ s.cfg.noneCheckParse = true
    let cov := fbBytes 0 9 s ++ payload
    ∃ t, exec .decRecv s = .next t ∧ t.rx = rest ∧ t.fbn = 15 + s.hLen.toNat ∧ t.tx = s.tx ∧
      t.checkOut = s.checkOut ∧ t.op = s.op ∧
      (parsed → parseHex s.cfg.hexLowerOk chk = none → RejectedWith .badHex s t) ∧
      (∀ c : BitVec 16, (parsed → parseHex s.cfg.hexLowerOk chk = some c.toNat) →
        (checkOk s.cfg s.hEca cov c = false → RejectedWith .integrity s t) ∧
        (checkOk s.cfg s.hEca cov c = true → termOk s.cfg.termRule cr lf = false → RejectedWith .badTerm s t) ∧
        (checkOk s.cfg s.hEca cov c = true → termOk s.cfg.termRule cr lf = true →
          t.phase = .done ∧ t.ok = true ∧ t.st = .idle ∧ t.diagCause = causeAfter s .accepted ∧
          FrameResult (if s.hKind = 0x3F then .request else .response) s.hDev s.hLen true payload s.hEca t))

/-- The body step of an Interrupt or CommError (42_decoder.md R250, R256, R257): code field, check field, integrity over
the eight bytes before it, the terminator only under `P_SIPCEP_TERM_CHECK`, acceptance. -/
def Obligations.ShortBodyIsValidatedThenAccepted : Prop :=
  ∀ (s : State) (code chk : List Byte) (cr lf : Byte) (rest : List Byte), Executing .decRecv s →
    s.st = .waitShort → s.fbn = 6 → s.need = 8 → Memory.wf s.fb = true → s.chanOpen = true →
    s.cfg.chanReadFull = true → code.length = 2 → chk.length = 4 →
    s.rx = code ++ chk ++ cr :: lf :: rest →
    let parsed := s.hEca ≠ .none ∨ s.cfg.noneCheckParse = true
    let cov := fbBytes 0 6 s ++ code
    let term := s.cfg.sipcepTermCheck = false ∨ termOk s.cfg.termRule cr lf = true
    ∃ t, exec .decRecv s = .next t ∧ t.rx = rest ∧ t.fbn = 14 ∧ t.tx = s.tx ∧ t.checkOut = s.checkOut ∧
      t.op = s.op ∧
      (parseHex s.cfg.hexLowerOk code = none → RejectedWith .badHex s t) ∧
      (∀ v : Byte, parseHex s.cfg.hexLowerOk code = some v.toNat →
        (parsed → parseHex s.cfg.hexLowerOk chk = none → RejectedWith .badHex s t) ∧
        (∀ c : BitVec 16, (parsed → parseHex s.cfg.hexLowerOk chk = some c.toNat) →
          (checkOk s.cfg s.hEca cov c = false → RejectedWith .integrity s t) ∧
          (checkOk s.cfg s.hEca cov c = true → ¬term → RejectedWith .badTerm s t) ∧
          (checkOk s.cfg s.hEca cov c = true → term →
            t.phase = .done ∧ t.ok = true ∧ t.st = .idle ∧ t.diagCause = causeAfter s .accepted ∧
            FrameResult (if s.hKind = 0x21 then .interrupt else .commError) s.hDev (v.setWidth 12) false []
              s.hEca t)))

/-- The terminator test (42_decoder.md R246), both readings. -/
def Obligations.TerminatorTestIsLenient : Prop :=
  ∀ cr lf : Byte,
    (termOk .crOrLf cr lf = true ↔ cr = 0x0D ∨ lf = 0x0A) ∧
    (termOk .eitherByteCrOrLf cr lf = true ↔ (cr = 0x0D ∨ cr = 0x0A) ∨ (lf = 0x0D ∨ lf = 0x0A))

/-- One failure result (42_decoder.md R260, 60_exceptions.md R300): a step of a receive leaves it in progress with every
result register as before, or ends it with a frame, or with `Timeout` and one cause; it writes nothing of the encoder's
or the host's. -/
def Obligations.ReceiveEndsInAFrameOrInTimeout : Prop :=
  ∀ s t : State, Executing .decRecv s → exec .decRecv s = .next t →
    t.tx = s.tx ∧ t.checkOut = s.checkOut ∧ t.chanOpen = s.chanOpen ∧ t.cfgRto = s.cfgRto ∧ t.op = s.op ∧
    ((Executing .decRecv t ∧ t.ok = s.ok ∧ SameResults s t) ∨
     (t.phase = .done ∧ t.st = .idle ∧ t.ok = true ∧ t.diagCause = causeAfter s .accepted ∧
       ∃ k dev col present payload a, FrameResult k dev col present payload a t) ∨
     (∃ c, c ≠ .accepted ∧ RejectedWith c s t))

/-- Bytes consumed at each exit (60_exceptions.md R305), as `FBN` at the exit; what is read leaves `RX`, the rest stays. -/
def Obligations.BytesConsumedAtEachExit : Prop :=
  ∀ s t : State, s.Inv → s.cfg.hasDiagCause = true → Executing .decRecv s → exec .decRecv s = .next t →
    t.phase = .done →
    t.rx = s.rx.drop (t.fbn - s.fbn) ∧
    ∃ c, t.diagCause = some c ∧
      (s.st = .scan → c = .noData ∧ t.fbn = 0) ∧
      (s.st = .waitHdr → (c = .waitExpired ∧ t.fbn = 1) ∨ (c = .shortRead ∧ 1 ≤ t.fbn ∧ t.fbn < 1 + 5) ∨
        ((c = .badEca ∨ c = .badHex ∨ c = .badKind) ∧ t.fbn = 6)) ∧
      (s.st = .waitLen → (c = .waitExpired ∧ t.fbn = 6) ∨ (c = .shortRead ∧ 6 ≤ t.fbn ∧ t.fbn < 6 + 3) ∨
        (c = .badHex ∧ t.fbn = 9)) ∧
      (s.st = .waitBody → (c = .waitExpired ∧ t.fbn = 9) ∨
        (c = .shortRead ∧ 9 ≤ t.fbn ∧ t.fbn < 9 + (s.hLen.toNat + 6)) ∨
        ((c = .badHex ∨ c = .integrity ∨ c = .badTerm ∨ c = .accepted) ∧ t.fbn = 15 + s.hLen.toNat)) ∧
      (s.st = .waitShort → (c = .waitExpired ∧ t.fbn = 6) ∨ (c = .shortRead ∧ 6 ≤ t.fbn ∧ t.fbn < 6 + 8) ∨
        ((c = .badHex ∨ c = .integrity ∨ c = .badTerm ∨ c = .accepted) ∧ t.fbn = 14))

/-! ## Wire bytes -/

/-- `WIRE_SENTINEL` (30_encoding.md R91, 42_decoder.md R230): in the scan it becomes `FB[0]` and the header wait begins;
elsewhere it is no instruction (log entry 12). -/
def Obligations.WireSentinelStartsTheHeaderWait : Prop :=
  ∀ s : State,
    (s.st = .scan → Memory.wf s.fb = true → ∃ t, exec .wireSentinel s = .next t ∧
      t = { s with fb := t.fb, fbn := 1, st := .waitHdr, need := 5, ticks := t.ticks } ∧
      (t.ticks = if s.cfg.tickScope = .perWait then 0 else s.ticks) ∧
      fbByte 0 t = 0x21 ∧ ∀ a, a ≠ 0 → fbByte a t = fbByte a s) ∧
    (s.st ≠ .scan → exec .wireSentinel s = .refused .wireByteOutOfPlace)

/-- The kind characters (30_encoding.md R92, 42_decoder.md R235): `'?'` and `'#'` enter the length wait of 3 bytes, `'!'`
and `'~'` the short wait of 8; nothing else changes. -/
def Obligations.WireKindsEnterTheirWait : Prop :=
  ∀ s : State,
    let entered := fun (c : Byte) (w : DecState) (n : Nat) =>
      { s with hKind := c, st := w, need := n, ticks := if s.cfg.tickScope = .perWait then 0 else s.ticks }
    (s.st = .waitHdr →
      exec .wireKindRequest s = .next (entered 0x3F .waitLen 3) ∧
      exec .wireKindResponse s = .next (entered 0x23 .waitLen 3) ∧
      exec .wireKindInterrupt s = .next (entered 0x21 .waitShort 8) ∧
      exec .wireKindCommError s = .next (entered 0x7E .waitShort 8)) ∧
    (s.st ≠ .waitHdr → ∀ k : Kind, exec (wireKind k) s = .refused .wireByteOutOfPlace)

/-- The ECA digits (30_encoding.md R93, 42_decoder.md R233): `H_ECA` holds the ordinal; nothing else changes. -/
def Obligations.WireEcasSelectTheirAlgorithm : Prop :=
  ∀ s : State,
    (s.st = .waitHdr →
      exec .wireEcaNone s = .next { s with hEca := .none } ∧
      exec .wireEcaXor8 s = .next { s with hEca := .xor8 } ∧
      exec .wireEcaChecksum16 s = .next { s with hEca := .checksum16 } ∧
      exec .wireEcaLrc16 s = .next { s with hEca := .lrc16 } ∧
      exec .wireEcaFletcher16 s = .next { s with hEca := .fletcher16 } ∧
      exec .wireEcaCrc16 s = .next { s with hEca := .crc16 }) ∧
    (s.st ≠ .waitHdr → ∀ a : Alg, exec (wireEca a) s = .refused .wireByteOutOfPlace)

/-! ## The machine -/

/-- A step runs the decoded instruction: the command the host presents, or, after what the channel supplies by itself, the
command in progress at the codec's turn (no input left, a codec step between two inputs, or a host that waits for
`DONE`); and the word that `withFetchWord` places runs at the very next step (10_state.md R43, 30_encoding.md R122,
70_reset_and_hazards.md R371; log entries 11, 21, 28 and 29). -/
def Obligations.StepRunsTheDecodedInstruction : Prop :=
  (∀ (s : State) (w : Byte) (p : Ports) (es : List Event) (i : Instr), Ready s → s.events = .command w p :: es →
    decode .command w p = .ok i → step s = exec i { s with events := es }) ∧
  (∀ (s : State) (i : Instr), Executing i s → (s.events = [] ∨ ∃ k es, s.events = .awaitDone k :: es) →
    step s = exec i (supplyNext s)) ∧
  (∀ (s : State) (i : Instr) (es : List Event), Executing i s → s.events = .codec :: es →
    step s = exec i (supplyNext { s with events := es })) ∧
  (∀ s : State, s.supply = .quiet → supplyNext s = s) ∧
  (∀ (s : State) (w : Nat) (i : Instr), Ready s → decodeTableWord 8 w = some i →
    step (s.withFetchWord 8 w) = exec i s)

/-- Every step keeps the invariant (10_state.md R30 to R50; 42_decoder.md R221, R225): the command in progress is a legal
one named by `STATUS.OP`; `CFG_RTO` fits; `FB` is canonical and within its 4110 bytes; each decoder state has its place
in the frame, its byte count and its tick bound; the result registers change together. -/
def Obligations.StepKeepsTheInvariant : Prop :=
  ∀ s t : State, s.Inv → step s = .next t → t.Inv

/-- The reset state meets the invariant (10_state.md R54). -/
def Obligations.ResetMeetsTheInvariant : Prop := State.reset.Inv

/-- Every step keeps the frame buffer's canonical form, from any state (20_memory.md R60; log entry 4). -/
def Obligations.StepKeepsTheFrameBufferCanonical : Prop :=
  ∀ s t : State, Memory.wf s.fb = true → step s = .next t → Memory.wf t.fb = true

/-- No fault but a host's read of an `UNWRITTEN` register (60_exceptions.md R315) can happen in a state that meets the
invariant; the model's other faults are out of reach (log entries 16 and 17). -/
def Obligations.OnlyUnwrittenReadsFault : Prop :=
  ∀ (s : State) (f : Fault), s.Inv → step s = .fault f →
    ∃ (r : HostReg) (es : List Event), s.events = .read r :: es ∧ f = .unwrittenRead r

/-- Results are immutable (10_state.md R50): the result registers change only at the completion of a `DEC_RECV`, or at
reset (70_reset_and_hazards.md R340). -/
def Obligations.ResultsChangeOnlyWhenAReceiveCompletes : Prop :=
  ∀ s t : State, step s = .next t →
    SameResults s t ∨ (Executing .decRecv s ∧ t.phase = .done) ∨ ∃ es, s.events = .reset :: es

/-- `TX` is append-only (20_memory.md R60, R64), across a reset too (70_reset_and_hazards.md R340), and grows only by an
encode on an open channel. -/
def Obligations.TransmitStreamIsAppendOnly : Prop :=
  ∀ s t : State, step s = .next t → ∃ frame, t.tx = s.tx ++ frame ∧
    (frame ≠ [] → s.chanOpen = true ∧ ∃ alg dev x pbuf,
      Executing (.encReq alg dev x pbuf) s ∨ Executing (.encRsp alg dev x pbuf) s ∨ Executing (.encSip alg dev x) s ∨
      Executing (.encCep alg dev x) s)

/-- The receive stream (20_memory.md R62, R63, R65; 70_reset_and_hazards.md R340): a step appends to it the bytes that
arrive, which needs an open channel, and removes bytes from its head, which only a receive, a close or a reset does. -/
def Obligations.ReceiveStreamLosesOnlyItsHead : Prop :=
  ∀ s t : State, step s = .next t → ∃ (bs : List Byte) (k : Nat), t.rx = (s.rx ++ bs).drop k ∧
    (bs ≠ [] → s.chanOpen = true ∧
      ((∃ es, s.events = .arrive bs :: es) ∨ (s.supply ≠ .quiet ∧ (supplyNext s).rx = s.rx ++ bs))) ∧
    (k ≠ 0 → Executing .decRecv s ∨ Executing .chanCloseCmd s ∨ ∃ es, s.events = .reset :: es)

/-- Registers change only by their writers (10_state.md R39, R40, R41, R53): `CFG_RTO` by a host write, to the value written
where it fits and to a free value of the register's width where it does not (log entry 14), `CHAN_OPEN` by the channel
commands, `CHECK_OUT` by the encodes and `CHK_COMPUTE`, all of them by a reset; the parameters never. The refusal mark is
set only by a request that is refused (60_exceptions.md R314). That nothing clears it, a reset included, is the model's
choice, on which the spec is silent (log entries 25 and 27). -/
def Obligations.RegistersChangeOnlyByTheirWriters : Prop :=
  ∀ s t : State, step s = .next t →
    t.cfg = s.cfg ∧
    (t.cfgRto ≠ s.cfgRto → (∃ v es, s.events = .writeRto v :: es ∧ Ready s ∧ t.cfgRto < 2 ^ s.cfg.rtoWidth ∧
        (v < 2 ^ s.cfg.rtoWidth → t.cfgRto = v)) ∨
      ∃ es, s.events = .reset :: es) ∧
    (t.chanOpen ≠ s.chanOpen → Executing .chanOpenCmd s ∨ Executing .chanCloseCmd s ∨
      ∃ es, s.events = .reset :: es) ∧
    (t.checkOut ≠ s.checkOut → (∃ alg dev x pbuf n,
      Executing (.encReq alg dev x pbuf) s ∨ Executing (.encRsp alg dev x pbuf) s ∨ Executing (.encSip alg dev x) s ∨
      Executing (.encCep alg dev x) s ∨ Executing (.chkCompute alg pbuf n) s) ∨ ∃ es, s.events = .reset :: es) ∧
    (s.refusalMark = true → t.refusalMark = true) ∧
    (CommandInv s → t.refusalMark ≠ s.refusalMark → ∃ es, t = { s with events := es, refusalMark := true } ∧
      ((∃ w p, s.events = .command w p :: es) ∨ ((∃ v, s.events = .writeRto v :: es) ∧ ¬Ready s)))

/-- Termination of a receive (42_decoder.md R262): with no more arrivals it completes within one step a byte of `RX` and
`CFG_RTO + 2` polls for each of at most three waits, whether or not the host waits for it. -/
def Obligations.ReceiveTerminates : Prop :=
  ∀ s : State, s.Inv → Executing .decRecv s → s.supply = .quiet →
    (s.events = [] ∨ ∃ k es, s.events = .awaitDone k :: es) →
    ∃ (n : Nat) (t : State), n ≤ s.rx.length + 1 + 3 * (s.cfgRto + 2) ∧ Reaches n s t ∧ t.phase = .done ∧
      t.events = s.events

/-- A receive can run without bound (70_reset_and_hazards.md R356, 42_decoder.md R231): while the channel supplies new bytes
other than the sentinel before every scan step, over and over, the scan steps on without a result, for every number of
steps. The supply that repeats itself without end is the model's way to hold an endless input (log entry 28). -/
def Obligations.EndlessGarbageNeverEndsAReceive : Prop :=
  ∀ (s : State) (chunk : List Byte) (later : List (List Byte)), Executing .decRecv s → s.st = .scan →
    s.events = [] → s.chanOpen = true → s.cfg.chanReadFull = true → (0x21 : Byte) ∉ s.rx →
    s.supply = .cycle chunk later → (∀ c ∈ chunk :: later, c ≠ [] ∧ (0x21 : Byte) ∉ c) →
    ∀ n, ∃ t, Reaches n s t ∧ Executing .decRecv t ∧ t.st = .scan ∧ SameResults s t

/-- A wait that never sees enough bytes (42_decoder.md R225, R263): it sleeps `CFG_RTO + 1` ticks, and its poll number
`CFG_RTO + 2` ends the receive with `WAIT_EXPIRED`, nothing read. -/
def Obligations.StalledWaitExpiresAfterItsBudget : Prop :=
  ∀ s : State, Executing .decRecv s → s.st ∈ [DecState.waitHdr, .waitLen, .waitBody, .waitShort] → s.events = [] →
    s.supply = .quiet → s.ticks = 0 → chanAvail s < s.need →
    (∀ k ≤ s.cfgRto + 1, Reaches k s { s with ticks := k }) ∧
    ∃ t, Reaches (s.cfgRto + 2) s t ∧ RejectedWith .waitExpired s t ∧ t.rx = s.rx ∧ t.fbn = s.fbn

/-- Round trip (41_encoder.md R189): a frame an encode writes, delivered unchanged into the empty receive stream of a
block with the same parameters, is decoded by `DEC_RECV` to the encode's own kind, device id, length or code, payload
and algorithm. `P_CS16_COMPARE = MASKED16` and `P_CHAN_READ_FULL` are assumed; every other parameter is free. -/
def Obligations.DecodingAnEncodedFrameGivesItBack : Prop :=
  ∀ (s t r : State) (frame : List Byte) (p : Ports) (alg : Alg) (dev x : Word) (pbuf : List Byte),
    s.chanOpen = true → s.cfg.cs16Compare = .masked16 → s.cfg.chanReadFull = true →
    r.cfg = s.cfg → Ready r → r.chanOpen = true → Memory.wf r.fb = true → r.rx = frame →
    r.events = [.command 0x05 p] → r.supply = .quiet → t.tx = s.tx ++ frame →
    let dev12 := BitVec.ofNat 12 (fit s.cfg.fieldOverflow 12 dev.toNat)
    let l := min (fit s.cfg.fieldOverflow 12 x.toNat) pbuf.length
    let code8 := BitVec.ofNat 12 (fit s.cfg.fieldOverflow 8 x.toNat)
    (Executing (.encReq alg dev x pbuf) s → exec (.encReq alg dev x pbuf) s = .next t →
      ∃ u, Reaches 5 r u ∧ u.phase = .done ∧ u.ok = true ∧ u.rx = [] ∧
        FrameResult .request dev12 (BitVec.ofNat 12 l) true (pbuf.take l) alg u) ∧
    (Executing (.encRsp alg dev x pbuf) s → exec (.encRsp alg dev x pbuf) s = .next t →
      ∃ u, Reaches 5 r u ∧ u.phase = .done ∧ u.ok = true ∧ u.rx = [] ∧
        FrameResult .response dev12 (BitVec.ofNat 12 l) true (pbuf.take l) alg u) ∧
    (Executing (.encSip alg dev x) s → exec (.encSip alg dev x) s = .next t →
      ∃ u, Reaches 4 r u ∧ u.phase = .done ∧ u.ok = true ∧ u.rx = [] ∧
        FrameResult .interrupt dev12 code8 false [] alg u) ∧
    (Executing (.encCep alg dev x) s → exec (.encCep alg dev x) s = .next t →
      ∃ u, Reaches 4 r u ∧ u.phase = .done ∧ u.ok = true ∧ u.rx = [] ∧
        FrameResult .commError dev12 code8 false [] alg u)

/-! ## The host's view -/

/-- Faults on unwritten reads (60_exceptions.md R315). -/
def Obligations.UnwrittenReadsFault : Prop :=
  ∀ (s : State) (r : HostReg) (es : List Event), s.events = .read r :: es →
    (r = .checkOut → s.checkOut = none → step s = .fault (.unwrittenRead r)) ∧
    (r = .resKind → s.resKind = none → step s = .fault (.unwrittenRead r)) ∧
    (r = .diagCause → s.cfg.hasDiagCause = true → s.diagCause = none → step s = .fault (.unwrittenRead r)) ∧
    (r = .diagCause → s.cfg.hasDiagCause = true → s.Inv → s.resKind = none → step s = .fault (.unwrittenRead r)) ∧
    (s.Inv → s.resKind = none ∨ s.resKind = some .timeout →
      r = .resDev ∨ r = .resCol ∨ r = .resEca ∨ r = .resPayloadPresent ∨ (∃ i, r = .resPayload i) →
      step s = .fault (.unwrittenRead r)) ∧
    (∀ i, r = .resPayload i → s.Inv →
      (∀ n, s.resCol = some n → n.toNat ≤ i) ∨ s.resKind = some .interrupt ∨ s.resKind = some .commError →
      step s = .fault (.unwrittenRead r))

/-- Host reads return the register, in the spec's codes, and change nothing of the block (10_state.md R38, R45, R49, R53;
60_exceptions.md R301; 20_memory.md R72). -/
def Obligations.HostReadsReturnTheRegister : Prop :=
  ∀ (s : State) (r : HostReg) (es : List Event) (n : Nat), s.events = .read r :: es →
    (match r with
      | .status => n = (statusWord s).toNat
      | .cfgRto => n = s.cfgRto
      | .chanOpen => n = if s.chanOpen then 1 else 0
      | .checkOut => ∃ v, s.checkOut = some v ∧ n = v.toNat
      | .diagCause => s.cfg.hasDiagCause = true ∧ (s.diagCause, n) ∈ [(some Cause.accepted, 0), (some .noData, 1),
          (some .waitExpired, 2), (some .shortRead, 3), (some .badEca, 4), (some .badHex, 5), (some .badKind, 6),
          (some .integrity, 7), (some .badTerm, 8)]
      | .resKind => (s.resKind, n) ∈ [(some ResKind.request, 0), (some .response, 1), (some .interrupt, 2),
          (some .commError, 3), (some .timeout, 4)]
      | .resDev => ∃ v, s.resDev = some v ∧ n = v.toNat
      | .resCol => ∃ v, s.resCol = some v ∧ n = v.toNat
      | .resPayload i => ∃ b, s.resPayload[i]? = some b ∧ n = b.toNat
      | .resPayloadPresent => ∃ b, s.resPayloadPresent = some b ∧ n = if b then 1 else 0
      | .resEca => (s.resEca, n) ∈ [(some Alg.none, 0), (some .xor8, 1), (some .checksum16, 2), (some .lrc16, 3),
          (some .fletcher16, 4), (some .crc16, 5)]) →
    step s = .next { s with events := es, hostReads := s.hostReads ++ [(r, n)] }

/-- The layout of `STATUS` (10_state.md R38): `STATE` in bits 1:0, `OP` in 5:2, `OK` in 6, and 31:7 read as 0. -/
def Obligations.StatusPacksStateOpAndOk : Prop :=
  ∀ s : State,
    (statusWord s).toNat = (match s.phase with | .idle => 0 | .busy _ => 1 | .done => 2) + 4 * s.op.toNat +
      64 * (if s.ok then 1 else 0)

/-- A host write of `CFG_RTO` (10_state.md R39): taken while the block is not `BUSY`, refused while it is; a value wider
than the register leaves some value of the register's width, and nothing is said of which (log entry 14). -/
def Obligations.CfgRtoIsWritableOnlyWhenNotBusy : Prop :=
  ∀ (s : State) (v : Nat) (es : List Event), s.events = .writeRto v :: es →
    (Ready s → v < 2 ^ s.cfg.rtoWidth → step s = .next { s with events := es, cfgRto := v }) ∧
    (¬Ready s → step s = .next { s with events := es, refusalMark := true }) ∧
    (Ready s → 2 ^ s.cfg.rtoWidth ≤ v →
      ∃ x < 2 ^ s.cfg.rtoWidth, step s = .next { s with events := es, cfgRto := x })

/-- Arrival (20_memory.md R63): bytes are appended to the end of `RX`, only while the channel is open; so too the bytes the
channel supplies by itself before each codec step (70_reset_and_hazards.md R356; log entry 28). -/
def Obligations.BytesArriveOnlyWhileOpen : Prop :=
  ∀ (s : State) (bs : List Byte) (es : List Event),
    let arrived := fun bs : List Byte => if s.chanOpen then s.rx ++ bs else s.rx
    (s.events = .arrive bs :: es → step s = .next { s with events := es, rx := arrived bs }) ∧
    (∀ f, s.events = .supply f :: es → step s = .next { s with events := es, supply := f }) ∧
    (Ready s → s.events = [] → step s = .next (supplyNext s)) ∧
    (∀ d ds, s.supply = .cycle bs (d :: ds) →
      supplyNext s = { s with rx := arrived bs, supply := .cycle d (ds ++ [bs]) }) ∧
    (s.supply = .cycle bs [] → supplyNext s = { s with rx := arrived bs }) ∧
    (s.supply = .free → ∃ cs, supplyNext s = { s with rx := arrived cs, drawCount := s.drawCount + 1 })

/-- The reset event (70_reset_and_hazards.md R340), in any state: the registers of 10_state.md R54 at their values, `TX`
unchanged, `RX` unchanged or empty, either of which is possible. R340 does not speak of the parameters, the inputs to come,
the refusal mark, the channel's supply or the record of the host's reads: that a reset keeps them is the model's reading
(log entry 25). -/
def Obligations.ResetAbandonsTheCommand : Prop :=
  ∀ (s : State) (es : List Event), s.events = .reset :: es →
    (∃ t, step s = .next t ∧ t.phase = .idle ∧ t.op = 0 ∧ t.ok = false ∧ t.cfgRto = s.cfg.readTimeout ∧
      t.chanOpen = false ∧ t.checkOut = none ∧ t.diagCause = none ∧ t.resKind = none ∧ t.resDev = none ∧
      t.resCol = none ∧ t.resPayload = [] ∧ t.resPayloadPresent = none ∧ t.resEca = none ∧ t.st = .idle ∧
      t.fbn = 0 ∧ t.need = 0 ∧ t.ticks = 0 ∧ t.tx = s.tx ∧ (t.rx = s.rx ∨ t.rx = []) ∧ t.cfg = s.cfg ∧
      t.events = es ∧ t.refusalMark = s.refusalMark ∧ t.supply = s.supply ∧ t.hostReads = s.hostReads) ∧
    ∀ keep : Bool, ∃ (tape : List Nat) (t : State),
      step { s with tape := tape } = .next t ∧ t.rx = if keep then s.rx else []

/-- The values 10_state.md R54 gives for reset, and the decided parameters (00_scope.md R10 to R21). -/
def Obligations.ResetValuesAreTheSpecs : Prop :=
  let s := State.reset
  s.phase = .idle ∧ s.op = 0 ∧ s.ok = false ∧ s.cfgRto = s.cfg.readTimeout ∧ s.chanOpen = false ∧
  s.checkOut = none ∧ s.diagCause = none ∧ s.resKind = none ∧ s.resDev = none ∧ s.resCol = none ∧
  s.resPayload = [] ∧ s.resPayloadPresent = none ∧ s.resEca = none ∧ s.st = .idle ∧ s.fbn = 0 ∧ s.need = 0 ∧
  s.ticks = 0 ∧
  s.cfg.fieldOverflow = .truncate ∧ s.cfg.cs16Compare = .masked16 ∧ s.cfg.tickScope = .perWait ∧
  s.cfg.lrc16Signed = false ∧ s.cfg.fletcher16Signed = false ∧ s.cfg.crc16FinalSwap = false ∧
  s.cfg.hexLowerOk = true ∧ s.cfg.termRule = .crOrLf ∧ s.cfg.sipcepTermCheck = false ∧
  s.cfg.noneCheckParse = true ∧ s.cfg.chanReadFull = true ∧ s.cfg.hasDiagCause = true

/-- The role adapters' calls (43_host_ops.md R284 to R287, R289): presented to a block that is not `BUSY`, each runs the
command it expands to, with the algorithm `P_ADAPTER_ECA`. `begin()` then waits for `DONE`, reads `STATUS`, and returns
its `OK`. -/
def Obligations.AdapterCallsRunTheirCommand : Prop :=
  ∀ (s : State) (es : List Event) (dev code : Word) (payload : List Byte),
    let a := s.cfg.adapterEca
    let present := fun c : AdapterCall => step { s with events := callEvents s c ++ es }
    let runs := fun (i : Instr) (es : List Event) => exec i { s with events := es }
    (Ready s →
      present (.sendRequest dev payload) = runs (.encReq a dev (BitVec.ofNat 32 payload.length) payload) es ∧
      present (.sendResponse dev payload) = runs (.encRsp a dev (BitVec.ofNat 32 payload.length) payload) es ∧
      present (.sendInterrupt dev code) = runs (.encSip a dev code) es ∧
      present (.sendError dev code) = runs (.encCep a dev code) es ∧
      present .receive = runs .decRecv (.awaitDone .readResult :: es) ∧
      present .beginChannel = runs .chanOpenCmd (.awaitDone .readStatus :: es)) ∧
    (s.phase = .done → s.events = .awaitDone .readStatus :: es →
      ∃ n, beginResult n = s.ok ∧ Reaches 2 s { s with events := es, hostReads := s.hostReads ++ [(.status, n)] })

/-- `receive()` (43_host_ops.md R288), whole: `DEC_RECV`, the wait for `DONE`, then the reads. After a completed receive it
reads `RES_KIND`, and, only when that is not `Timeout`, `RES_DEV`, `RES_COL`, `RES_ECA` and every byte of the payload; each
read returns the register's value, and none faults. -/
def Obligations.ReceiveCallReadsItsResult : Prop :=
  (∀ s : State, ResultInv s → s.resKind ≠ none →
    (s.resKind = some .timeout → receiveReads s = [.resKind]) ∧
    (s.resKind ≠ some .timeout → receiveReads s =
      [.resKind, .resDev, .resCol, .resEca] ++ (List.range s.resPayload.length).map .resPayload) ∧
    ∀ r ∈ receiveReads s, ∃ n, hostRead r s = .next { s with hostReads := s.hostReads ++ [(r, n)] }) ∧
  (∀ (s : State) (es : List Event), s.events = .awaitDone .readResult :: es →
    (∀ i, Executing i s → step s = exec i (supplyNext s)) ∧
    (s.phase = .idle → step s = .next (supplyNext s)) ∧
    (s.phase = .done → step s = .next { s with events := (receiveReads s).map .read ++ es })) ∧
  (∀ s : State, s.Inv → Ready s → s.supply = .quiet → s.events = callEvents s .receive →
    ∃ (n : Nat) (t : State) (reads : List (HostReg × Nat)), Reaches n s t ∧ t.phase = .done ∧ t.events = [] ∧
      t.resKind ≠ none ∧ t.hostReads = s.hostReads ++ reads ∧ reads.map Prod.fst = receiveReads t ∧
      ∀ p ∈ reads, hostRead p.1 t = .next { t with hostReads := t.hostReads ++ [p] })
end

