-- ==== Sys2Proof/Laws/Decode.lean ====
section
/-! SUPPORT. What the decoder reads from the encoder's bytes, field by field. -/

namespace Sys2Proof

@[simp] theorem algOfOrdinal_algOrdinal (a : Alg) : algOfOrdinal (algOrdinal a) = some a := by cases a <;> rfl

/-- An ECA digit reads back as its algorithm. -/
@[simp] theorem ecaOfChar_ecaChar (a : Alg) : ecaOfChar (ecaChar a) = some a := by cases a <;> rfl

/-- A kind character reads back as its kind. -/
@[simp] theorem kindOfChar_kindChar (k : Kind) : kindOfChar (kindChar k) = some k := by cases k <;> rfl

/-- A byte that reads as an algorithm is that algorithm's ECA digit. -/
theorem eq_ecaChar_of_ecaOfChar {c : Byte} {a : Alg} (h : ecaOfChar c = some a) : c = ecaChar a := by
  unfold ecaOfChar at h
  split at h
  · rename_i hc
    have : c = 0x30 ∨ c = 0x31 ∨ c = 0x32 ∨ c = 0x33 ∨ c = 0x34 ∨ c = 0x35 := by
      obtain ⟨h1, h2⟩ := hc
      bv_omega
    rcases this with rfl | rfl | rfl | rfl | rfl | rfl <;> cases h <;> rfl
  · simp at h

/-- A byte that reads as a kind is that kind's character. -/
theorem eq_kindChar_of_kindOfChar {c : Byte} {k : Kind} (h : kindOfChar c = some k) : c = kindChar k := by
  unfold kindOfChar at h
  split at h
  · simp at h; subst h; assumption
  · split at h
    · simp at h; subst h; assumption
    · split at h
      · simp at h; subst h; assumption
      · split at h
        · simp at h; subst h; assumption
        · simp at h

/-- The fields of a command word: bit 7, `ALG`, `OP`. -/
theorem commandWord_fields (op : BitVec 4) (alg : BitVec 3) :
    (commandWord op alg).getLsbD 7 = false ∧ (commandWord op alg).extractLsb' 4 3 = alg ∧
      (commandWord op alg).extractLsb' 0 4 = op := by
  revert op alg
  decide

/-- The long encoders and the short encoders, and `CHK_COMPUTE`: a word made of a command's code and an algorithm reads
as that command with the ports it names. -/
theorem decodeCommand_commandWord (a : Alg) (p : Ports) :
    decodeCommand (commandWord 0x1 (algOrdinal a)) p = .encReq a p.devIn p.lreqIn p.pbuf ∧
    decodeCommand (commandWord 0x2 (algOrdinal a)) p = .encRsp a p.devIn p.lreqIn p.pbuf ∧
    decodeCommand (commandWord 0x3 (algOrdinal a)) p = .encSip a p.devIn p.codeIn ∧
    decodeCommand (commandWord 0x4 (algOrdinal a)) p = .encCep a p.devIn p.codeIn ∧
    decodeCommand (commandWord 0x6 (algOrdinal a)) p = .chkCompute a p.dbuf p.nIn := by
  cases a <;> exact ⟨rfl, rfl, rfl, rfl, rfl⟩

end Sys2Proof
end

