-- ==== Sys2Proof/Laws/State.lean ====
section
/-! SUPPORT. What each shared update of the state does to each field: one lemma a field and update, so that no later
proof unfolds a record update. -/

namespace Sys2Proof.Machine

variable (s : State)

/-! ## `complete` -/

@[simp] theorem complete_cfg (ok : Bool) : (complete ok s).cfg = s.cfg := rfl
@[simp] theorem complete_phase (ok : Bool) : (complete ok s).phase = .done := rfl
@[simp] theorem complete_op (ok : Bool) : (complete ok s).op = s.op := rfl
@[simp] theorem complete_ok (ok : Bool) : (complete ok s).ok = ok := rfl
@[simp] theorem complete_cfgRto (ok : Bool) : (complete ok s).cfgRto = s.cfgRto := rfl
@[simp] theorem complete_chanOpen (ok : Bool) : (complete ok s).chanOpen = s.chanOpen := rfl
@[simp] theorem complete_checkOut (ok : Bool) : (complete ok s).checkOut = s.checkOut := rfl
@[simp] theorem complete_diagCause (ok : Bool) : (complete ok s).diagCause = s.diagCause := rfl
@[simp] theorem complete_resKind (ok : Bool) : (complete ok s).resKind = s.resKind := rfl
@[simp] theorem complete_resDev (ok : Bool) : (complete ok s).resDev = s.resDev := rfl
@[simp] theorem complete_resCol (ok : Bool) : (complete ok s).resCol = s.resCol := rfl
@[simp] theorem complete_resPayload (ok : Bool) : (complete ok s).resPayload = s.resPayload := rfl
@[simp] theorem complete_resPayloadPresent (ok : Bool) : (complete ok s).resPayloadPresent = s.resPayloadPresent := rfl
@[simp] theorem complete_resEca (ok : Bool) : (complete ok s).resEca = s.resEca := rfl
@[simp] theorem complete_st (ok : Bool) : (complete ok s).st = s.st := rfl
@[simp] theorem complete_fb (ok : Bool) : (complete ok s).fb = s.fb := rfl
@[simp] theorem complete_fbn (ok : Bool) : (complete ok s).fbn = s.fbn := rfl
@[simp] theorem complete_need (ok : Bool) : (complete ok s).need = s.need := rfl
@[simp] theorem complete_ticks (ok : Bool) : (complete ok s).ticks = s.ticks := rfl
@[simp] theorem complete_hKind (ok : Bool) : (complete ok s).hKind = s.hKind := rfl
@[simp] theorem complete_hEca (ok : Bool) : (complete ok s).hEca = s.hEca := rfl
@[simp] theorem complete_hDev (ok : Bool) : (complete ok s).hDev = s.hDev := rfl
@[simp] theorem complete_hLen (ok : Bool) : (complete ok s).hLen = s.hLen := rfl
@[simp] theorem complete_hCode (ok : Bool) : (complete ok s).hCode = s.hCode := rfl
@[simp] theorem complete_hChk (ok : Bool) : (complete ok s).hChk = s.hChk := rfl
@[simp] theorem complete_rx (ok : Bool) : (complete ok s).rx = s.rx := rfl
@[simp] theorem complete_tx (ok : Bool) : (complete ok s).tx = s.tx := rfl
@[simp] theorem complete_events (ok : Bool) : (complete ok s).events = s.events := rfl
@[simp] theorem complete_tape (ok : Bool) : (complete ok s).tape = s.tape := rfl
@[simp] theorem complete_drawCount (ok : Bool) : (complete ok s).drawCount = s.drawCount := rfl
@[simp] theorem complete_hostReads (ok : Bool) : (complete ok s).hostReads = s.hostReads := rfl
@[simp] theorem complete_refusalMark (ok : Bool) : (complete ok s).refusalMark = s.refusalMark := rfl
@[simp] theorem complete_supply (ok : Bool) : (complete ok s).supply = s.supply := rfl

/-! ## `accept` -/

@[simp] theorem accept_cfg (i : Instr) : (accept i s).cfg = s.cfg := rfl
@[simp] theorem accept_phase (i : Instr) : (accept i s).phase = .busy i := rfl
@[simp] theorem accept_op (i : Instr) : (accept i s).op = opcode i := rfl
@[simp] theorem accept_ok (i : Instr) : (accept i s).ok = s.ok := rfl
@[simp] theorem accept_cfgRto (i : Instr) : (accept i s).cfgRto = s.cfgRto := rfl
@[simp] theorem accept_chanOpen (i : Instr) : (accept i s).chanOpen = s.chanOpen := rfl
@[simp] theorem accept_checkOut (i : Instr) : (accept i s).checkOut = s.checkOut := rfl
@[simp] theorem accept_diagCause (i : Instr) : (accept i s).diagCause = s.diagCause := rfl
@[simp] theorem accept_resKind (i : Instr) : (accept i s).resKind = s.resKind := rfl
@[simp] theorem accept_resDev (i : Instr) : (accept i s).resDev = s.resDev := rfl
@[simp] theorem accept_resCol (i : Instr) : (accept i s).resCol = s.resCol := rfl
@[simp] theorem accept_resPayload (i : Instr) : (accept i s).resPayload = s.resPayload := rfl
@[simp] theorem accept_resPayloadPresent (i : Instr) : (accept i s).resPayloadPresent = s.resPayloadPresent := rfl
@[simp] theorem accept_resEca (i : Instr) : (accept i s).resEca = s.resEca := rfl
@[simp] theorem accept_st (i : Instr) : (accept i s).st = s.st := rfl
@[simp] theorem accept_fb (i : Instr) : (accept i s).fb = s.fb := rfl
@[simp] theorem accept_fbn (i : Instr) : (accept i s).fbn = s.fbn := rfl
@[simp] theorem accept_need (i : Instr) : (accept i s).need = s.need := rfl
@[simp] theorem accept_ticks (i : Instr) : (accept i s).ticks = s.ticks := rfl
@[simp] theorem accept_hKind (i : Instr) : (accept i s).hKind = s.hKind := rfl
@[simp] theorem accept_hEca (i : Instr) : (accept i s).hEca = s.hEca := rfl
@[simp] theorem accept_hDev (i : Instr) : (accept i s).hDev = s.hDev := rfl
@[simp] theorem accept_hLen (i : Instr) : (accept i s).hLen = s.hLen := rfl
@[simp] theorem accept_hCode (i : Instr) : (accept i s).hCode = s.hCode := rfl
@[simp] theorem accept_hChk (i : Instr) : (accept i s).hChk = s.hChk := rfl
@[simp] theorem accept_rx (i : Instr) : (accept i s).rx = s.rx := rfl
@[simp] theorem accept_tx (i : Instr) : (accept i s).tx = s.tx := rfl
@[simp] theorem accept_events (i : Instr) : (accept i s).events = s.events := rfl
@[simp] theorem accept_tape (i : Instr) : (accept i s).tape = s.tape := rfl
@[simp] theorem accept_drawCount (i : Instr) : (accept i s).drawCount = s.drawCount := rfl
@[simp] theorem accept_hostReads (i : Instr) : (accept i s).hostReads = s.hostReads := rfl
@[simp] theorem accept_refusalMark (i : Instr) : (accept i s).refusalMark = s.refusalMark := rfl
@[simp] theorem accept_supply (i : Instr) : (accept i s).supply = s.supply := rfl

/-! ## `setCause` -/

@[simp] theorem setCause_cfg (c : Cause) : (setCause c s).cfg = s.cfg := rfl
@[simp] theorem setCause_phase (c : Cause) : (setCause c s).phase = s.phase := rfl
@[simp] theorem setCause_op (c : Cause) : (setCause c s).op = s.op := rfl
@[simp] theorem setCause_ok (c : Cause) : (setCause c s).ok = s.ok := rfl
@[simp] theorem setCause_cfgRto (c : Cause) : (setCause c s).cfgRto = s.cfgRto := rfl
@[simp] theorem setCause_chanOpen (c : Cause) : (setCause c s).chanOpen = s.chanOpen := rfl
@[simp] theorem setCause_checkOut (c : Cause) : (setCause c s).checkOut = s.checkOut := rfl
@[simp] theorem setCause_diagCause (c : Cause) : (setCause c s).diagCause = if s.cfg.hasDiagCause then some c else s.diagCause := rfl
@[simp] theorem setCause_resKind (c : Cause) : (setCause c s).resKind = s.resKind := rfl
@[simp] theorem setCause_resDev (c : Cause) : (setCause c s).resDev = s.resDev := rfl
@[simp] theorem setCause_resCol (c : Cause) : (setCause c s).resCol = s.resCol := rfl
@[simp] theorem setCause_resPayload (c : Cause) : (setCause c s).resPayload = s.resPayload := rfl
@[simp] theorem setCause_resPayloadPresent (c : Cause) : (setCause c s).resPayloadPresent = s.resPayloadPresent := rfl
@[simp] theorem setCause_resEca (c : Cause) : (setCause c s).resEca = s.resEca := rfl
@[simp] theorem setCause_st (c : Cause) : (setCause c s).st = s.st := rfl
@[simp] theorem setCause_fb (c : Cause) : (setCause c s).fb = s.fb := rfl
@[simp] theorem setCause_fbn (c : Cause) : (setCause c s).fbn = s.fbn := rfl
@[simp] theorem setCause_need (c : Cause) : (setCause c s).need = s.need := rfl
@[simp] theorem setCause_ticks (c : Cause) : (setCause c s).ticks = s.ticks := rfl
@[simp] theorem setCause_hKind (c : Cause) : (setCause c s).hKind = s.hKind := rfl
@[simp] theorem setCause_hEca (c : Cause) : (setCause c s).hEca = s.hEca := rfl
@[simp] theorem setCause_hDev (c : Cause) : (setCause c s).hDev = s.hDev := rfl
@[simp] theorem setCause_hLen (c : Cause) : (setCause c s).hLen = s.hLen := rfl
@[simp] theorem setCause_hCode (c : Cause) : (setCause c s).hCode = s.hCode := rfl
@[simp] theorem setCause_hChk (c : Cause) : (setCause c s).hChk = s.hChk := rfl
@[simp] theorem setCause_rx (c : Cause) : (setCause c s).rx = s.rx := rfl
@[simp] theorem setCause_tx (c : Cause) : (setCause c s).tx = s.tx := rfl
@[simp] theorem setCause_events (c : Cause) : (setCause c s).events = s.events := rfl
@[simp] theorem setCause_tape (c : Cause) : (setCause c s).tape = s.tape := rfl
@[simp] theorem setCause_drawCount (c : Cause) : (setCause c s).drawCount = s.drawCount := rfl
@[simp] theorem setCause_hostReads (c : Cause) : (setCause c s).hostReads = s.hostReads := rfl
@[simp] theorem setCause_refusalMark (c : Cause) : (setCause c s).refusalMark = s.refusalMark := rfl
@[simp] theorem setCause_supply (c : Cause) : (setCause c s).supply = s.supply := rfl

/-! ## `enterWait` -/

@[simp] theorem enterWait_cfg (w : DecState) (n : Nat) : (enterWait w n s).cfg = s.cfg := rfl
@[simp] theorem enterWait_phase (w : DecState) (n : Nat) : (enterWait w n s).phase = s.phase := rfl
@[simp] theorem enterWait_op (w : DecState) (n : Nat) : (enterWait w n s).op = s.op := rfl
@[simp] theorem enterWait_ok (w : DecState) (n : Nat) : (enterWait w n s).ok = s.ok := rfl
@[simp] theorem enterWait_cfgRto (w : DecState) (n : Nat) : (enterWait w n s).cfgRto = s.cfgRto := rfl
@[simp] theorem enterWait_chanOpen (w : DecState) (n : Nat) : (enterWait w n s).chanOpen = s.chanOpen := rfl
@[simp] theorem enterWait_checkOut (w : DecState) (n : Nat) : (enterWait w n s).checkOut = s.checkOut := rfl
@[simp] theorem enterWait_diagCause (w : DecState) (n : Nat) : (enterWait w n s).diagCause = s.diagCause := rfl
@[simp] theorem enterWait_resKind (w : DecState) (n : Nat) : (enterWait w n s).resKind = s.resKind := rfl
@[simp] theorem enterWait_resDev (w : DecState) (n : Nat) : (enterWait w n s).resDev = s.resDev := rfl
@[simp] theorem enterWait_resCol (w : DecState) (n : Nat) : (enterWait w n s).resCol = s.resCol := rfl
@[simp] theorem enterWait_resPayload (w : DecState) (n : Nat) : (enterWait w n s).resPayload = s.resPayload := rfl
@[simp] theorem enterWait_resPayloadPresent (w : DecState) (n : Nat) : (enterWait w n s).resPayloadPresent = s.resPayloadPresent := rfl
@[simp] theorem enterWait_resEca (w : DecState) (n : Nat) : (enterWait w n s).resEca = s.resEca := rfl
@[simp] theorem enterWait_st (w : DecState) (n : Nat) : (enterWait w n s).st = w := rfl
@[simp] theorem enterWait_fb (w : DecState) (n : Nat) : (enterWait w n s).fb = s.fb := rfl
@[simp] theorem enterWait_fbn (w : DecState) (n : Nat) : (enterWait w n s).fbn = s.fbn := rfl
@[simp] theorem enterWait_need (w : DecState) (n : Nat) : (enterWait w n s).need = n := rfl
@[simp] theorem enterWait_ticks (w : DecState) (n : Nat) : (enterWait w n s).ticks = if s.cfg.tickScope = .perWait then 0 else s.ticks := rfl
@[simp] theorem enterWait_hKind (w : DecState) (n : Nat) : (enterWait w n s).hKind = s.hKind := rfl
@[simp] theorem enterWait_hEca (w : DecState) (n : Nat) : (enterWait w n s).hEca = s.hEca := rfl
@[simp] theorem enterWait_hDev (w : DecState) (n : Nat) : (enterWait w n s).hDev = s.hDev := rfl
@[simp] theorem enterWait_hLen (w : DecState) (n : Nat) : (enterWait w n s).hLen = s.hLen := rfl
@[simp] theorem enterWait_hCode (w : DecState) (n : Nat) : (enterWait w n s).hCode = s.hCode := rfl
@[simp] theorem enterWait_hChk (w : DecState) (n : Nat) : (enterWait w n s).hChk = s.hChk := rfl
@[simp] theorem enterWait_rx (w : DecState) (n : Nat) : (enterWait w n s).rx = s.rx := rfl
@[simp] theorem enterWait_tx (w : DecState) (n : Nat) : (enterWait w n s).tx = s.tx := rfl
@[simp] theorem enterWait_events (w : DecState) (n : Nat) : (enterWait w n s).events = s.events := rfl
@[simp] theorem enterWait_tape (w : DecState) (n : Nat) : (enterWait w n s).tape = s.tape := rfl
@[simp] theorem enterWait_drawCount (w : DecState) (n : Nat) : (enterWait w n s).drawCount = s.drawCount := rfl
@[simp] theorem enterWait_hostReads (w : DecState) (n : Nat) : (enterWait w n s).hostReads = s.hostReads := rfl
@[simp] theorem enterWait_refusalMark (w : DecState) (n : Nat) : (enterWait w n s).refusalMark = s.refusalMark := rfl
@[simp] theorem enterWait_supply (w : DecState) (n : Nat) : (enterWait w n s).supply = s.supply := rfl

/-! ## `fbAppend` -/

@[simp] theorem fbAppend_cfg (bs : List Byte) : (fbAppend bs s).cfg = s.cfg := rfl
@[simp] theorem fbAppend_phase (bs : List Byte) : (fbAppend bs s).phase = s.phase := rfl
@[simp] theorem fbAppend_op (bs : List Byte) : (fbAppend bs s).op = s.op := rfl
@[simp] theorem fbAppend_ok (bs : List Byte) : (fbAppend bs s).ok = s.ok := rfl
@[simp] theorem fbAppend_cfgRto (bs : List Byte) : (fbAppend bs s).cfgRto = s.cfgRto := rfl
@[simp] theorem fbAppend_chanOpen (bs : List Byte) : (fbAppend bs s).chanOpen = s.chanOpen := rfl
@[simp] theorem fbAppend_checkOut (bs : List Byte) : (fbAppend bs s).checkOut = s.checkOut := rfl
@[simp] theorem fbAppend_diagCause (bs : List Byte) : (fbAppend bs s).diagCause = s.diagCause := rfl
@[simp] theorem fbAppend_resKind (bs : List Byte) : (fbAppend bs s).resKind = s.resKind := rfl
@[simp] theorem fbAppend_resDev (bs : List Byte) : (fbAppend bs s).resDev = s.resDev := rfl
@[simp] theorem fbAppend_resCol (bs : List Byte) : (fbAppend bs s).resCol = s.resCol := rfl
@[simp] theorem fbAppend_resPayload (bs : List Byte) : (fbAppend bs s).resPayload = s.resPayload := rfl
@[simp] theorem fbAppend_resPayloadPresent (bs : List Byte) : (fbAppend bs s).resPayloadPresent = s.resPayloadPresent := rfl
@[simp] theorem fbAppend_resEca (bs : List Byte) : (fbAppend bs s).resEca = s.resEca := rfl
@[simp] theorem fbAppend_st (bs : List Byte) : (fbAppend bs s).st = s.st := rfl
@[simp] theorem fbAppend_fb (bs : List Byte) : (fbAppend bs s).fb = Memory.writeBytes s.fb s.fbn bs := rfl
@[simp] theorem fbAppend_fbn (bs : List Byte) : (fbAppend bs s).fbn = s.fbn + bs.length := rfl
@[simp] theorem fbAppend_need (bs : List Byte) : (fbAppend bs s).need = s.need := rfl
@[simp] theorem fbAppend_ticks (bs : List Byte) : (fbAppend bs s).ticks = s.ticks := rfl
@[simp] theorem fbAppend_hKind (bs : List Byte) : (fbAppend bs s).hKind = s.hKind := rfl
@[simp] theorem fbAppend_hEca (bs : List Byte) : (fbAppend bs s).hEca = s.hEca := rfl
@[simp] theorem fbAppend_hDev (bs : List Byte) : (fbAppend bs s).hDev = s.hDev := rfl
@[simp] theorem fbAppend_hLen (bs : List Byte) : (fbAppend bs s).hLen = s.hLen := rfl
@[simp] theorem fbAppend_hCode (bs : List Byte) : (fbAppend bs s).hCode = s.hCode := rfl
@[simp] theorem fbAppend_hChk (bs : List Byte) : (fbAppend bs s).hChk = s.hChk := rfl
@[simp] theorem fbAppend_rx (bs : List Byte) : (fbAppend bs s).rx = s.rx := rfl
@[simp] theorem fbAppend_tx (bs : List Byte) : (fbAppend bs s).tx = s.tx := rfl
@[simp] theorem fbAppend_events (bs : List Byte) : (fbAppend bs s).events = s.events := rfl
@[simp] theorem fbAppend_tape (bs : List Byte) : (fbAppend bs s).tape = s.tape := rfl
@[simp] theorem fbAppend_drawCount (bs : List Byte) : (fbAppend bs s).drawCount = s.drawCount := rfl
@[simp] theorem fbAppend_hostReads (bs : List Byte) : (fbAppend bs s).hostReads = s.hostReads := rfl
@[simp] theorem fbAppend_refusalMark (bs : List Byte) : (fbAppend bs s).refusalMark = s.refusalMark := rfl
@[simp] theorem fbAppend_supply (bs : List Byte) : (fbAppend bs s).supply = s.supply := rfl

/-! ## `startReceive` -/

@[simp] theorem startReceive_cfg : (startReceive s).cfg = s.cfg := rfl
@[simp] theorem startReceive_phase : (startReceive s).phase = s.phase := rfl
@[simp] theorem startReceive_op : (startReceive s).op = s.op := rfl
@[simp] theorem startReceive_ok : (startReceive s).ok = s.ok := rfl
@[simp] theorem startReceive_cfgRto : (startReceive s).cfgRto = s.cfgRto := rfl
@[simp] theorem startReceive_chanOpen : (startReceive s).chanOpen = s.chanOpen := rfl
@[simp] theorem startReceive_checkOut : (startReceive s).checkOut = s.checkOut := rfl
@[simp] theorem startReceive_diagCause : (startReceive s).diagCause = s.diagCause := rfl
@[simp] theorem startReceive_resKind : (startReceive s).resKind = s.resKind := rfl
@[simp] theorem startReceive_resDev : (startReceive s).resDev = s.resDev := rfl
@[simp] theorem startReceive_resCol : (startReceive s).resCol = s.resCol := rfl
@[simp] theorem startReceive_resPayload : (startReceive s).resPayload = s.resPayload := rfl
@[simp] theorem startReceive_resPayloadPresent : (startReceive s).resPayloadPresent = s.resPayloadPresent := rfl
@[simp] theorem startReceive_resEca : (startReceive s).resEca = s.resEca := rfl
@[simp] theorem startReceive_st : (startReceive s).st = .scan := rfl
@[simp] theorem startReceive_fb : (startReceive s).fb = s.fb := rfl
@[simp] theorem startReceive_fbn : (startReceive s).fbn = 0 := rfl
@[simp] theorem startReceive_need : (startReceive s).need = s.need := rfl
@[simp] theorem startReceive_ticks : (startReceive s).ticks = 0 := rfl
@[simp] theorem startReceive_hKind : (startReceive s).hKind = s.hKind := rfl
@[simp] theorem startReceive_hEca : (startReceive s).hEca = s.hEca := rfl
@[simp] theorem startReceive_hDev : (startReceive s).hDev = s.hDev := rfl
@[simp] theorem startReceive_hLen : (startReceive s).hLen = s.hLen := rfl
@[simp] theorem startReceive_hCode : (startReceive s).hCode = s.hCode := rfl
@[simp] theorem startReceive_hChk : (startReceive s).hChk = s.hChk := rfl
@[simp] theorem startReceive_rx : (startReceive s).rx = s.rx := rfl
@[simp] theorem startReceive_tx : (startReceive s).tx = s.tx := rfl
@[simp] theorem startReceive_events : (startReceive s).events = s.events := rfl
@[simp] theorem startReceive_tape : (startReceive s).tape = s.tape := rfl
@[simp] theorem startReceive_drawCount : (startReceive s).drawCount = s.drawCount := rfl
@[simp] theorem startReceive_hostReads : (startReceive s).hostReads = s.hostReads := rfl
@[simp] theorem startReceive_refusalMark : (startReceive s).refusalMark = s.refusalMark := rfl
@[simp] theorem startReceive_supply : (startReceive s).supply = s.supply := rfl

/-! ## `reject` -/

@[simp] theorem reject_cfg (c : Cause) : (reject c s).cfg = s.cfg := rfl
@[simp] theorem reject_phase (c : Cause) : (reject c s).phase = .done := rfl
@[simp] theorem reject_op (c : Cause) : (reject c s).op = s.op := rfl
@[simp] theorem reject_ok (c : Cause) : (reject c s).ok = false := rfl
@[simp] theorem reject_cfgRto (c : Cause) : (reject c s).cfgRto = s.cfgRto := rfl
@[simp] theorem reject_chanOpen (c : Cause) : (reject c s).chanOpen = s.chanOpen := rfl
@[simp] theorem reject_checkOut (c : Cause) : (reject c s).checkOut = s.checkOut := rfl
@[simp] theorem reject_diagCause (c : Cause) : (reject c s).diagCause = if s.cfg.hasDiagCause then some c else s.diagCause := rfl
@[simp] theorem reject_resKind (c : Cause) : (reject c s).resKind = some .timeout := rfl
@[simp] theorem reject_resDev (c : Cause) : (reject c s).resDev = none := rfl
@[simp] theorem reject_resCol (c : Cause) : (reject c s).resCol = none := rfl
@[simp] theorem reject_resPayload (c : Cause) : (reject c s).resPayload = [] := rfl
@[simp] theorem reject_resPayloadPresent (c : Cause) : (reject c s).resPayloadPresent = none := rfl
@[simp] theorem reject_resEca (c : Cause) : (reject c s).resEca = none := rfl
@[simp] theorem reject_st (c : Cause) : (reject c s).st = .idle := rfl
@[simp] theorem reject_fb (c : Cause) : (reject c s).fb = s.fb := rfl
@[simp] theorem reject_fbn (c : Cause) : (reject c s).fbn = s.fbn := rfl
@[simp] theorem reject_need (c : Cause) : (reject c s).need = s.need := rfl
@[simp] theorem reject_ticks (c : Cause) : (reject c s).ticks = s.ticks := rfl
@[simp] theorem reject_hKind (c : Cause) : (reject c s).hKind = s.hKind := rfl
@[simp] theorem reject_hEca (c : Cause) : (reject c s).hEca = s.hEca := rfl
@[simp] theorem reject_hDev (c : Cause) : (reject c s).hDev = s.hDev := rfl
@[simp] theorem reject_hLen (c : Cause) : (reject c s).hLen = s.hLen := rfl
@[simp] theorem reject_hCode (c : Cause) : (reject c s).hCode = s.hCode := rfl
@[simp] theorem reject_hChk (c : Cause) : (reject c s).hChk = s.hChk := rfl
@[simp] theorem reject_rx (c : Cause) : (reject c s).rx = s.rx := rfl
@[simp] theorem reject_tx (c : Cause) : (reject c s).tx = s.tx := rfl
@[simp] theorem reject_events (c : Cause) : (reject c s).events = s.events := rfl
@[simp] theorem reject_tape (c : Cause) : (reject c s).tape = s.tape := rfl
@[simp] theorem reject_drawCount (c : Cause) : (reject c s).drawCount = s.drawCount := rfl
@[simp] theorem reject_hostReads (c : Cause) : (reject c s).hostReads = s.hostReads := rfl
@[simp] theorem reject_refusalMark (c : Cause) : (reject c s).refusalMark = s.refusalMark := rfl
@[simp] theorem reject_supply (c : Cause) : (reject c s).supply = s.supply := rfl

/-! ## `acceptFrame` -/

@[simp] theorem acceptFrame_cfg (k : Kind) (col : BitVec 12) (present : Bool) (payload : List Byte) : (acceptFrame k col present payload s).cfg = s.cfg := rfl
@[simp] theorem acceptFrame_phase (k : Kind) (col : BitVec 12) (present : Bool) (payload : List Byte) : (acceptFrame k col present payload s).phase = .done := rfl
@[simp] theorem acceptFrame_op (k : Kind) (col : BitVec 12) (present : Bool) (payload : List Byte) : (acceptFrame k col present payload s).op = s.op := rfl
@[simp] theorem acceptFrame_ok (k : Kind) (col : BitVec 12) (present : Bool) (payload : List Byte) : (acceptFrame k col present payload s).ok = true := rfl
@[simp] theorem acceptFrame_cfgRto (k : Kind) (col : BitVec 12) (present : Bool) (payload : List Byte) : (acceptFrame k col present payload s).cfgRto = s.cfgRto := rfl
@[simp] theorem acceptFrame_chanOpen (k : Kind) (col : BitVec 12) (present : Bool) (payload : List Byte) : (acceptFrame k col present payload s).chanOpen = s.chanOpen := rfl
@[simp] theorem acceptFrame_checkOut (k : Kind) (col : BitVec 12) (present : Bool) (payload : List Byte) : (acceptFrame k col present payload s).checkOut = s.checkOut := rfl
@[simp] theorem acceptFrame_diagCause (k : Kind) (col : BitVec 12) (present : Bool) (payload : List Byte) : (acceptFrame k col present payload s).diagCause = if s.cfg.hasDiagCause then some .accepted else s.diagCause := rfl
@[simp] theorem acceptFrame_resKind (k : Kind) (col : BitVec 12) (present : Bool) (payload : List Byte) : (acceptFrame k col present payload s).resKind = some (resKindOf k) := rfl
@[simp] theorem acceptFrame_resDev (k : Kind) (col : BitVec 12) (present : Bool) (payload : List Byte) : (acceptFrame k col present payload s).resDev = some s.hDev := rfl
@[simp] theorem acceptFrame_resCol (k : Kind) (col : BitVec 12) (present : Bool) (payload : List Byte) : (acceptFrame k col present payload s).resCol = some col := rfl
@[simp] theorem acceptFrame_resPayload (k : Kind) (col : BitVec 12) (present : Bool) (payload : List Byte) : (acceptFrame k col present payload s).resPayload = payload := rfl
@[simp] theorem acceptFrame_resPayloadPresent (k : Kind) (col : BitVec 12) (present : Bool) (payload : List Byte) : (acceptFrame k col present payload s).resPayloadPresent = some present := rfl
@[simp] theorem acceptFrame_resEca (k : Kind) (col : BitVec 12) (present : Bool) (payload : List Byte) : (acceptFrame k col present payload s).resEca = some s.hEca := rfl
@[simp] theorem acceptFrame_st (k : Kind) (col : BitVec 12) (present : Bool) (payload : List Byte) : (acceptFrame k col present payload s).st = .idle := rfl
@[simp] theorem acceptFrame_fb (k : Kind) (col : BitVec 12) (present : Bool) (payload : List Byte) : (acceptFrame k col present payload s).fb = s.fb := rfl
@[simp] theorem acceptFrame_fbn (k : Kind) (col : BitVec 12) (present : Bool) (payload : List Byte) : (acceptFrame k col present payload s).fbn = s.fbn := rfl
@[simp] theorem acceptFrame_need (k : Kind) (col : BitVec 12) (present : Bool) (payload : List Byte) : (acceptFrame k col present payload s).need = s.need := rfl
@[simp] theorem acceptFrame_ticks (k : Kind) (col : BitVec 12) (present : Bool) (payload : List Byte) : (acceptFrame k col present payload s).ticks = s.ticks := rfl
@[simp] theorem acceptFrame_hKind (k : Kind) (col : BitVec 12) (present : Bool) (payload : List Byte) : (acceptFrame k col present payload s).hKind = s.hKind := rfl
@[simp] theorem acceptFrame_hEca (k : Kind) (col : BitVec 12) (present : Bool) (payload : List Byte) : (acceptFrame k col present payload s).hEca = s.hEca := rfl
@[simp] theorem acceptFrame_hDev (k : Kind) (col : BitVec 12) (present : Bool) (payload : List Byte) : (acceptFrame k col present payload s).hDev = s.hDev := rfl
@[simp] theorem acceptFrame_hLen (k : Kind) (col : BitVec 12) (present : Bool) (payload : List Byte) : (acceptFrame k col present payload s).hLen = s.hLen := rfl
@[simp] theorem acceptFrame_hCode (k : Kind) (col : BitVec 12) (present : Bool) (payload : List Byte) : (acceptFrame k col present payload s).hCode = s.hCode := rfl
@[simp] theorem acceptFrame_hChk (k : Kind) (col : BitVec 12) (present : Bool) (payload : List Byte) : (acceptFrame k col present payload s).hChk = s.hChk := rfl
@[simp] theorem acceptFrame_rx (k : Kind) (col : BitVec 12) (present : Bool) (payload : List Byte) : (acceptFrame k col present payload s).rx = s.rx := rfl
@[simp] theorem acceptFrame_tx (k : Kind) (col : BitVec 12) (present : Bool) (payload : List Byte) : (acceptFrame k col present payload s).tx = s.tx := rfl
@[simp] theorem acceptFrame_events (k : Kind) (col : BitVec 12) (present : Bool) (payload : List Byte) : (acceptFrame k col present payload s).events = s.events := rfl
@[simp] theorem acceptFrame_tape (k : Kind) (col : BitVec 12) (present : Bool) (payload : List Byte) : (acceptFrame k col present payload s).tape = s.tape := rfl
@[simp] theorem acceptFrame_drawCount (k : Kind) (col : BitVec 12) (present : Bool) (payload : List Byte) : (acceptFrame k col present payload s).drawCount = s.drawCount := rfl
@[simp] theorem acceptFrame_hostReads (k : Kind) (col : BitVec 12) (present : Bool) (payload : List Byte) : (acceptFrame k col present payload s).hostReads = s.hostReads := rfl
@[simp] theorem acceptFrame_refusalMark (k : Kind) (col : BitVec 12) (present : Bool) (payload : List Byte) : (acceptFrame k col present payload s).refusalMark = s.refusalMark := rfl
@[simp] theorem acceptFrame_supply (k : Kind) (col : BitVec 12) (present : Bool) (payload : List Byte) : (acceptFrame k col present payload s).supply = s.supply := rfl

/-! ## `refuseRequest` -/

@[simp] theorem refuseRequest_cfg : (refuseRequest s).cfg = s.cfg := rfl
@[simp] theorem refuseRequest_phase : (refuseRequest s).phase = s.phase := rfl
@[simp] theorem refuseRequest_op : (refuseRequest s).op = s.op := rfl
@[simp] theorem refuseRequest_ok : (refuseRequest s).ok = s.ok := rfl
@[simp] theorem refuseRequest_cfgRto : (refuseRequest s).cfgRto = s.cfgRto := rfl
@[simp] theorem refuseRequest_chanOpen : (refuseRequest s).chanOpen = s.chanOpen := rfl
@[simp] theorem refuseRequest_checkOut : (refuseRequest s).checkOut = s.checkOut := rfl
@[simp] theorem refuseRequest_diagCause : (refuseRequest s).diagCause = s.diagCause := rfl
@[simp] theorem refuseRequest_resKind : (refuseRequest s).resKind = s.resKind := rfl
@[simp] theorem refuseRequest_resDev : (refuseRequest s).resDev = s.resDev := rfl
@[simp] theorem refuseRequest_resCol : (refuseRequest s).resCol = s.resCol := rfl
@[simp] theorem refuseRequest_resPayload : (refuseRequest s).resPayload = s.resPayload := rfl
@[simp] theorem refuseRequest_resPayloadPresent : (refuseRequest s).resPayloadPresent = s.resPayloadPresent := rfl
@[simp] theorem refuseRequest_resEca : (refuseRequest s).resEca = s.resEca := rfl
@[simp] theorem refuseRequest_st : (refuseRequest s).st = s.st := rfl
@[simp] theorem refuseRequest_fb : (refuseRequest s).fb = s.fb := rfl
@[simp] theorem refuseRequest_fbn : (refuseRequest s).fbn = s.fbn := rfl
@[simp] theorem refuseRequest_need : (refuseRequest s).need = s.need := rfl
@[simp] theorem refuseRequest_ticks : (refuseRequest s).ticks = s.ticks := rfl
@[simp] theorem refuseRequest_hKind : (refuseRequest s).hKind = s.hKind := rfl
@[simp] theorem refuseRequest_hEca : (refuseRequest s).hEca = s.hEca := rfl
@[simp] theorem refuseRequest_hDev : (refuseRequest s).hDev = s.hDev := rfl
@[simp] theorem refuseRequest_hLen : (refuseRequest s).hLen = s.hLen := rfl
@[simp] theorem refuseRequest_hCode : (refuseRequest s).hCode = s.hCode := rfl
@[simp] theorem refuseRequest_hChk : (refuseRequest s).hChk = s.hChk := rfl
@[simp] theorem refuseRequest_rx : (refuseRequest s).rx = s.rx := rfl
@[simp] theorem refuseRequest_tx : (refuseRequest s).tx = s.tx := rfl
@[simp] theorem refuseRequest_events : (refuseRequest s).events = s.events := rfl
@[simp] theorem refuseRequest_tape : (refuseRequest s).tape = s.tape := rfl
@[simp] theorem refuseRequest_drawCount : (refuseRequest s).drawCount = s.drawCount := rfl
@[simp] theorem refuseRequest_hostReads : (refuseRequest s).hostReads = s.hostReads := rfl
@[simp] theorem refuseRequest_refusalMark : (refuseRequest s).refusalMark = true := rfl
@[simp] theorem refuseRequest_supply : (refuseRequest s).supply = s.supply := rfl

/-! ## `arrive` -/

@[simp] theorem arrive_cfg (bs : List Byte) : (arrive bs s).cfg = s.cfg := rfl
@[simp] theorem arrive_phase (bs : List Byte) : (arrive bs s).phase = s.phase := rfl
@[simp] theorem arrive_op (bs : List Byte) : (arrive bs s).op = s.op := rfl
@[simp] theorem arrive_ok (bs : List Byte) : (arrive bs s).ok = s.ok := rfl
@[simp] theorem arrive_cfgRto (bs : List Byte) : (arrive bs s).cfgRto = s.cfgRto := rfl
@[simp] theorem arrive_chanOpen (bs : List Byte) : (arrive bs s).chanOpen = s.chanOpen := rfl
@[simp] theorem arrive_checkOut (bs : List Byte) : (arrive bs s).checkOut = s.checkOut := rfl
@[simp] theorem arrive_diagCause (bs : List Byte) : (arrive bs s).diagCause = s.diagCause := rfl
@[simp] theorem arrive_resKind (bs : List Byte) : (arrive bs s).resKind = s.resKind := rfl
@[simp] theorem arrive_resDev (bs : List Byte) : (arrive bs s).resDev = s.resDev := rfl
@[simp] theorem arrive_resCol (bs : List Byte) : (arrive bs s).resCol = s.resCol := rfl
@[simp] theorem arrive_resPayload (bs : List Byte) : (arrive bs s).resPayload = s.resPayload := rfl
@[simp] theorem arrive_resPayloadPresent (bs : List Byte) : (arrive bs s).resPayloadPresent = s.resPayloadPresent := rfl
@[simp] theorem arrive_resEca (bs : List Byte) : (arrive bs s).resEca = s.resEca := rfl
@[simp] theorem arrive_st (bs : List Byte) : (arrive bs s).st = s.st := rfl
@[simp] theorem arrive_fb (bs : List Byte) : (arrive bs s).fb = s.fb := rfl
@[simp] theorem arrive_fbn (bs : List Byte) : (arrive bs s).fbn = s.fbn := rfl
@[simp] theorem arrive_need (bs : List Byte) : (arrive bs s).need = s.need := rfl
@[simp] theorem arrive_ticks (bs : List Byte) : (arrive bs s).ticks = s.ticks := rfl
@[simp] theorem arrive_hKind (bs : List Byte) : (arrive bs s).hKind = s.hKind := rfl
@[simp] theorem arrive_hEca (bs : List Byte) : (arrive bs s).hEca = s.hEca := rfl
@[simp] theorem arrive_hDev (bs : List Byte) : (arrive bs s).hDev = s.hDev := rfl
@[simp] theorem arrive_hLen (bs : List Byte) : (arrive bs s).hLen = s.hLen := rfl
@[simp] theorem arrive_hCode (bs : List Byte) : (arrive bs s).hCode = s.hCode := rfl
@[simp] theorem arrive_hChk (bs : List Byte) : (arrive bs s).hChk = s.hChk := rfl
@[simp] theorem arrive_rx (bs : List Byte) : (arrive bs s).rx = if s.chanOpen then s.rx ++ bs else s.rx := rfl
@[simp] theorem arrive_tx (bs : List Byte) : (arrive bs s).tx = s.tx := rfl
@[simp] theorem arrive_events (bs : List Byte) : (arrive bs s).events = s.events := rfl
@[simp] theorem arrive_tape (bs : List Byte) : (arrive bs s).tape = s.tape := rfl
@[simp] theorem arrive_drawCount (bs : List Byte) : (arrive bs s).drawCount = s.drawCount := rfl
@[simp] theorem arrive_hostReads (bs : List Byte) : (arrive bs s).hostReads = s.hostReads := rfl
@[simp] theorem arrive_refusalMark (bs : List Byte) : (arrive bs s).refusalMark = s.refusalMark := rfl
@[simp] theorem arrive_supply (bs : List Byte) : (arrive bs s).supply = s.supply := rfl

/-! ## `supplyNext` -/

@[simp] theorem supplyNext_cfg : (supplyNext s).cfg = s.cfg := rfl
@[simp] theorem supplyNext_phase : (supplyNext s).phase = s.phase := rfl
@[simp] theorem supplyNext_op : (supplyNext s).op = s.op := rfl
@[simp] theorem supplyNext_ok : (supplyNext s).ok = s.ok := rfl
@[simp] theorem supplyNext_cfgRto : (supplyNext s).cfgRto = s.cfgRto := rfl
@[simp] theorem supplyNext_chanOpen : (supplyNext s).chanOpen = s.chanOpen := rfl
@[simp] theorem supplyNext_checkOut : (supplyNext s).checkOut = s.checkOut := rfl
@[simp] theorem supplyNext_diagCause : (supplyNext s).diagCause = s.diagCause := rfl
@[simp] theorem supplyNext_resKind : (supplyNext s).resKind = s.resKind := rfl
@[simp] theorem supplyNext_resDev : (supplyNext s).resDev = s.resDev := rfl
@[simp] theorem supplyNext_resCol : (supplyNext s).resCol = s.resCol := rfl
@[simp] theorem supplyNext_resPayload : (supplyNext s).resPayload = s.resPayload := rfl
@[simp] theorem supplyNext_resPayloadPresent : (supplyNext s).resPayloadPresent = s.resPayloadPresent := rfl
@[simp] theorem supplyNext_resEca : (supplyNext s).resEca = s.resEca := rfl
@[simp] theorem supplyNext_st : (supplyNext s).st = s.st := rfl
@[simp] theorem supplyNext_fb : (supplyNext s).fb = s.fb := rfl
@[simp] theorem supplyNext_fbn : (supplyNext s).fbn = s.fbn := rfl
@[simp] theorem supplyNext_need : (supplyNext s).need = s.need := rfl
@[simp] theorem supplyNext_ticks : (supplyNext s).ticks = s.ticks := rfl
@[simp] theorem supplyNext_hKind : (supplyNext s).hKind = s.hKind := rfl
@[simp] theorem supplyNext_hEca : (supplyNext s).hEca = s.hEca := rfl
@[simp] theorem supplyNext_hDev : (supplyNext s).hDev = s.hDev := rfl
@[simp] theorem supplyNext_hLen : (supplyNext s).hLen = s.hLen := rfl
@[simp] theorem supplyNext_hCode : (supplyNext s).hCode = s.hCode := rfl
@[simp] theorem supplyNext_hChk : (supplyNext s).hChk = s.hChk := rfl
@[simp] theorem supplyNext_rx : (supplyNext s).rx = if s.chanOpen then s.rx ++ suppliedBytes s else s.rx := rfl
@[simp] theorem supplyNext_tx : (supplyNext s).tx = s.tx := rfl
@[simp] theorem supplyNext_events : (supplyNext s).events = s.events := rfl
@[simp] theorem supplyNext_tape : (supplyNext s).tape = s.tape := rfl
@[simp] theorem supplyNext_drawCount : (supplyNext s).drawCount = if s.supply = .free then s.drawCount + 1 else s.drawCount := rfl
@[simp] theorem supplyNext_hostReads : (supplyNext s).hostReads = s.hostReads := rfl
@[simp] theorem supplyNext_refusalMark : (supplyNext s).refusalMark = s.refusalMark := rfl
@[simp] theorem supplyNext_supply : (supplyNext s).supply = nextSupply s.supply := rfl

/-- A channel that supplies nothing by itself changes nothing. -/
theorem supplyNext_quiet (h : s.supply = .quiet) : supplyNext s = s := by
  cases s
  cases h
  simp [supplyNext, arrive, suppliedBytes, nextSupply]

/-! ## Removing bytes from `RX` -/

@[simp] theorem takeRx_fst (k : Nat) : (takeRx k s).1 = s.rx.take k := rfl
@[simp] theorem takeRx_snd (k : Nat) : (takeRx k s).2 = { s with rx := s.rx.drop k } := rfl

end Sys2Proof.Machine
end

