-- ==== Sys2Proof/Laws/Exec.lean ====
section
/-! SUPPORT. What each shared operation can do, once for each: the two steps of a command, draws, channel reads, the
scan, the poll. -/

namespace Sys2Proof.Machine

variable {s t : State}

/-! ## The steps of a command -/

theorem isBusy_of_busy {i : Instr} (h : s.phase = .busy i) : isBusy s = true := by simp [isBusy, h]

/-- The accept step. -/
theorem runCommand_ready (i : Instr) (start : State → State) (work : State → Host.Outcome State Fault Refusal)
    (h : isBusy s = false) : runCommand i true start work s = .next (start (accept i s)) := by
  cases hp : s.phase with
  | idle => simp [runCommand, hp]
  | busy j => simp [isBusy, hp] at h
  | done => simp [runCommand, hp]

/-- The next step of the command in progress. -/
theorem runCommand_executing {i : Instr} {ok : Bool} (start : State → State)
    (work : State → Host.Outcome State Fault Refusal) (h : s.phase = .busy i) :
    runCommand i ok start work s = work s := by simp [runCommand, h]

/-- A command with a port out of its bounds is refused, unless it is the one in progress. -/
theorem runCommand_badPorts {i : Instr} (start : State → State) (work : State → Host.Outcome State Fault Refusal)
    (h : s.phase ≠ .busy i) : runCommand i false start work s = .next (refuseRequest s) := by
  cases hp : s.phase with
  | idle => simp [runCommand, hp]
  | busy j =>
    have hj : j ≠ i := fun e => h (by rw [hp, e])
    simp [runCommand, hp, hj]
  | done => simp [runCommand, hp]

/-- Everything a command's step can answer with a next state: an acceptance, the work of the command in progress, or a
refusal. -/
theorem runCommand_next {i : Instr} {ok : Bool} {start : State → State}
    {work : State → Host.Outcome State Fault Refusal} (h : runCommand i ok start work s = .next t) :
    (isBusy s = false ∧ ok = true ∧ t = start (accept i s)) ∨ (s.phase = .busy i ∧ work s = .next t) ∨
    (s.phase ≠ .busy i ∧ (isBusy s = true ∨ ok = false) ∧ t = refuseRequest s) := by
  cases hp : s.phase with
  | idle =>
    cases ok <;> simp [runCommand, hp] at h
    · exact .inr (.inr ⟨nofun, .inr rfl, h.symm⟩)
    · exact .inl ⟨by simp [isBusy, hp], rfl, h.symm⟩
  | done =>
    cases ok <;> simp [runCommand, hp] at h
    · exact .inr (.inr ⟨nofun, .inr rfl, h.symm⟩)
    · exact .inl ⟨by simp [isBusy, hp], rfl, h.symm⟩
  | busy j =>
    simp only [runCommand, hp] at h
    split at h
    · exact .inr (.inl ⟨by simp [*], h⟩)
    · simp at h
      exact .inr (.inr ⟨by simp [*], .inl (isBusy_of_busy hp), h.symm⟩)

/-- A command's step faults only where its work does. -/
theorem runCommand_fault {i : Instr} {ok : Bool} {start : State → State} {f : Fault}
    {work : State → Host.Outcome State Fault Refusal} (h : runCommand i ok start work s = .fault f) :
    s.phase = .busy i ∧ work s = .fault f := by
  cases hp : s.phase with
  | idle => simp [runCommand, hp] at h
  | done => simp [runCommand, hp] at h
  | busy j =>
    simp only [runCommand, hp] at h
    split at h
    · exact ⟨by simp [*], h⟩
    · simp at h

/-! ## Ports -/

/-- The ports of the long encoders are in bounds exactly when `PBUF` has at most 4096 bytes. -/
theorem pbufOk_iff {pbuf : List Byte} : pbufOk pbuf = true ↔ pbuf.length ≤ 4096 := decide_eq_true_iff

/-- The ports of `CHK_COMPUTE` are in bounds exactly when `DBUF` has at most 4110 bytes and `N_IN` counts no more than
they are. -/
theorem chkPortsOk_iff {dbuf : List Byte} {n : Nat} :
    chkPortsOk dbuf n = true ↔ dbuf.length ≤ 4110 ∧ n ≤ dbuf.length := by
  rw [chkPortsOk, Bool.and_eq_true, decide_eq_true_iff, decide_eq_true_iff, Config.frameMax]

/-! ## Draws and channel reads -/

/-- A draw changes only the model's own record of draws. -/
theorem draw_snd (s : State) : ∃ tape n, (draw s).2 = { s with tape := tape, drawCount := n } := by
  unfold draw
  split
  · exact ⟨_, _, rfl⟩
  · exact ⟨_, _, rfl⟩

/-- Where the tape fixes the next choice, the draw is that choice. -/
theorem draw_tape {d : Nat} {ds : List Nat} (h : s.tape = d :: ds) : draw s = (d, { s with tape := ds }) := by
  simp [draw, h]

/-- What a read can do: it returns the first `k` bytes of `RX` and removes them, `k` at most `n` and at most what is
available; with `P_CHAN_READ_FULL` it is as many as that allows. -/
theorem chanRead_spec (n : Nat) (s : State) : ∃ k tape c, k ≤ min n (chanAvail s) ∧
    (s.cfg.chanReadFull = true → k = min n (chanAvail s) ∧ tape = s.tape ∧ c = s.drawCount) ∧
    chanRead n s = (s.rx.take k, { s with rx := s.rx.drop k, tape := tape, drawCount := c }) := by
  by_cases hf : s.cfg.chanReadFull = true
  · exact ⟨_, s.tape, s.drawCount, Nat.le_refl _, fun _ => ⟨rfl, rfl, rfl⟩, by simp [chanRead, hf, takeRx]⟩
  · obtain ⟨tape, c, h⟩ := draw_snd s
    refine ⟨(draw s).1 % (min n (chanAvail s) + 1), tape, c, Nat.le_of_lt_succ (Nat.mod_lt _ (Nat.succ_pos _)),
      fun h => absurd h hf, ?_⟩
    simp [chanRead, hf, takeRx, h]

/-- A read with `P_CHAN_READ_FULL` on an open channel. -/
theorem chanRead_full (n : Nat) (hf : s.cfg.chanReadFull = true) :
    chanRead n s = (s.rx.take (min n (chanAvail s)), { s with rx := s.rx.drop (min n (chanAvail s)) }) := by
  simp [chanRead, hf, takeRx]

theorem chanAvail_le (s : State) : chanAvail s ≤ s.rx.length := by
  unfold chanAvail
  split <;> simp

theorem chanAvail_open (h : s.chanOpen = true) : chanAvail s = s.rx.length := by simp [chanAvail, h]

theorem chanAvail_closed (h : s.chanOpen = false) : chanAvail s = 0 := by simp [chanAvail, h]

/-! ## The decoder's steps -/

/-- Everything a poll can answer with a next state: a whole read that is processed, a short read, an expired wait, or
one tick of sleep. -/
theorem pollStep_next {process : State → State} (h : pollStep process s = .next t) :
    (s.need ≤ chanAvail s ∧ s.fbn + (chanRead s.need s).1.length ≤ Config.frameMax ∧
      (((chanRead s.need s).1.length < s.need ∧
          t = reject .shortRead (fbAppend (chanRead s.need s).1 (chanRead s.need s).2)) ∨
       (s.need ≤ (chanRead s.need s).1.length ∧
          t = process (fbAppend (chanRead s.need s).1 (chanRead s.need s).2)))) ∨
    (chanAvail s < s.need ∧ s.cfgRto < s.ticks ∧ t = reject .waitExpired s) ∨
    (chanAvail s < s.need ∧ s.ticks ≤ s.cfgRto ∧ t = { s with ticks := s.ticks + 1 }) := by
  obtain ⟨k, tape, c, -, -, hr⟩ := chanRead_spec s.need s
  unfold pollStep at h
  split at h
  · rename_i hn
    refine .inl ⟨hn, ?_⟩
    unfold polled at h
    split at h
    · simp at h
    · rename_i hfit
      have hfbn : (chanRead s.need s).2.fbn = s.fbn := by rw [hr]
      have hneed : (chanRead s.need s).2.need = s.need := by rw [hr]
      rw [hfbn] at hfit
      refine ⟨by omega, ?_⟩
      rw [hneed] at h
      split at h
      · simp at h; exact .inl ⟨‹_›, h.symm⟩
      · simp at h; exact .inr ⟨by omega, h.symm⟩
  · split at h
    · simp at h; exact .inr (.inl ⟨by omega, ‹_›, h.symm⟩)
    · simp at h; exact .inr (.inr ⟨by omega, by omega, h.symm⟩)

/-- With `P_CHAN_READ_FULL`, a poll that finds its bytes on an open channel reads exactly them and processes them. -/
theorem pollStep_full {process : State → State} (hf : s.cfg.chanReadFull = true) (ho : s.chanOpen = true)
    (hn : s.need ≤ s.rx.length) (hfit : s.fbn + s.need ≤ Config.frameMax) :
    pollStep process s =
      .next (process (fbAppend (s.rx.take s.need) { s with rx := s.rx.drop s.need })) := by
  have hav : chanAvail s = s.rx.length := chanAvail_open ho
  have hlen : (s.rx.take s.need).length = s.need := by rw [List.length_take]; omega
  rw [pollStep, if_pos (by omega), chanRead_full s.need hf, hav, Nat.min_eq_left hn, polled]
  simp only [hlen]
  rw [if_neg (by omega), if_neg (Nat.lt_irrefl _)]

/-- A poll that does not find its bytes within the budget sleeps one tick. -/
theorem pollStep_sleep {process : State → State} (hn : chanAvail s < s.need) (ht : s.ticks ≤ s.cfgRto) :
    pollStep process s = .next { s with ticks := s.ticks + 1 } := by
  rw [pollStep, if_neg (by omega), if_neg (by omega)]

/-- A poll that does not find its bytes past the budget ends the receive. -/
theorem pollStep_expire {process : State → State} (hn : chanAvail s < s.need) (ht : s.cfgRto < s.ticks) :
    pollStep process s = .next (reject .waitExpired s) := by
  rw [pollStep, if_neg (by omega), if_pos ht]

/-! ## The work of each command in progress -/

theorem exec_encReq_executing {alg : Alg} {dev lreq : Word} {pbuf : List Byte}
    (h : s.phase = .busy (.encReq alg dev lreq pbuf)) :
    exec (.encReq alg dev lreq pbuf) s = .next (encodeFrame .request alg dev (longBody s.cfg lreq pbuf) s) := by
  rw [exec, execEncReq, runCommand_executing _ _ h]

theorem exec_encRsp_executing {alg : Alg} {dev lreq : Word} {pbuf : List Byte}
    (h : s.phase = .busy (.encRsp alg dev lreq pbuf)) :
    exec (.encRsp alg dev lreq pbuf) s = .next (encodeFrame .response alg dev (longBody s.cfg lreq pbuf) s) := by
  rw [exec, execEncRsp, runCommand_executing _ _ h]

theorem exec_encSip_executing {alg : Alg} {dev code : Word} (h : s.phase = .busy (.encSip alg dev code)) :
    exec (.encSip alg dev code) s = .next (encodeFrame .interrupt alg dev (shortBody s.cfg code) s) := by
  rw [exec, execEncSip, runCommand_executing _ _ h]

theorem exec_encCep_executing {alg : Alg} {dev code : Word} (h : s.phase = .busy (.encCep alg dev code)) :
    exec (.encCep alg dev code) s = .next (encodeFrame .commError alg dev (shortBody s.cfg code) s) := by
  rw [exec, execEncCep, runCommand_executing _ _ h]

theorem exec_decRecv_executing (h : s.phase = .busy .decRecv) : exec .decRecv s = receiveStep s := by
  rw [exec, execDecRecv, runCommand_executing _ _ h]

theorem exec_chkCompute_executing {alg : Alg} {dbuf : List Byte} {n : Nat}
    (h : s.phase = .busy (.chkCompute alg dbuf n)) :
    exec (.chkCompute alg dbuf n) s =
      .next (complete true { s with checkOut := some (compute s.cfg alg (dbuf.take n)) }) := by
  rw [exec, execChkCompute, runCommand_executing _ _ h]

theorem exec_chanOpenCmd_executing (h : s.phase = .busy .chanOpenCmd) :
    exec .chanOpenCmd s = .next (openChannel s) := by
  rw [exec, execChanOpenCmd, runCommand_executing _ _ h]

theorem exec_chanCloseCmd_executing (h : s.phase = .busy .chanCloseCmd) :
    exec .chanCloseCmd s = .next (closeChannel s) := by
  rw [exec, execChanCloseCmd, runCommand_executing _ _ h]

end Sys2Proof.Machine
end

