-- ==== Sys2Proof/Laws/Hex.lean ====
section
/-! SUPPORT. Fields: what fits, what renders, and that a rendered field parses back. -/

namespace Sys2Proof.Machine

theorem fit_lt (o : FieldOverflow) (n v : Nat) : fit o n v < 2 ^ n := by
  have h : 0 < 2 ^ n := Nat.two_pow_pos n
  cases o with
  | truncate => exact Nat.mod_lt _ h
  | saturate => simp only [fit]; omega

theorem effectiveLength_le (o : FieldOverflow) (lreq : Word) (pbuf : List Byte) :
    effectiveLength o lreq pbuf ≤ pbuf.length := Nat.min_le_right ..

theorem effectiveLength_lt (o : FieldOverflow) (lreq : Word) (pbuf : List Byte) :
    effectiveLength o lreq pbuf < 2 ^ 12 := lt_of_le_of_lt (Nat.min_le_left ..) (fit_lt ..)

@[simp] theorem length_hexN (n v : Nat) : (hexN n v).length = n := by
  induction n with
  | zero => rfl
  | succ n ih => simp [hexN, ih]

/-- A rendered digit parses to its value, whether or not lowercase digits are accepted. -/
theorem hexValue_hexDigit (lowerOk : Bool) {d : Nat} (h : d < 16) : hexValue lowerOk (hexDigit d) = some d := by
  interval_cases d <;> cases lowerOk <;> rfl

theorem hexValue_lt {lowerOk : Bool} {c : Byte} {d : Nat} (h : hexValue lowerOk c = some d) : d < 16 := by
  simp only [hexValue] at h
  split at h
  · simp at h; omega
  · split at h
    · simp at h; omega
    · split at h
      · simp at h; omega
      · simp at h

/-- Parsing a rendered field after digits of value `v`. -/
theorem parseHexFrom_hexN (lowerOk : Bool) (n v w : Nat) (cs : List Byte) (h : w < 16 ^ n) :
    parseHexFrom lowerOk v (hexN n w ++ cs) = parseHexFrom lowerOk (v * 16 ^ n + w) cs := by
  induction n generalizing v w with
  | zero => simp at h; simp [hexN, h]
  | succ n ih =>
    have hp : 0 < 16 ^ n := by positivity
    have hd : w / 16 ^ n < 16 := by
      rw [Nat.div_lt_iff_lt_mul hp]; rw [pow_succ] at h; omega
    have hm : hexN n w = hexN n (w % 16 ^ n) := by
      clear ih h hd
      suffices key : ∀ m, m ≤ n → hexN m w = hexN m (w % 16 ^ n) from key n (Nat.le_refl n)
      intro m
      induction m with
      | zero => intro _; rfl
      | succ m ihm =>
        intro hmn
        rw [hexN, hexN, ihm (by omega)]
        congr 2
        obtain ⟨k, rfl⟩ : ∃ k, n = m + 1 + k := ⟨n - (m + 1), by omega⟩
        rw [show (16 : Nat) ^ (m + 1 + k) = 16 ^ m * (16 * 16 ^ k) by ring, Nat.mod_mul_right_div_self,
          Nat.mod_mul_right_mod]
    rw [hexN, List.cons_append, parseHexFrom, Nat.mod_eq_of_lt hd, hexValue_hexDigit lowerOk hd]
    simp only
    rw [hm, ih _ _ (Nat.mod_lt _ hp)]
    congr 1
    have := Nat.div_add_mod w (16 ^ n)
    rw [pow_succ]
    linarith [show (16 * v + w / 16 ^ n) * 16 ^ n + w % 16 ^ n = 16 * v * 16 ^ n + (16 ^ n * (w / 16 ^ n) + w % 16 ^ n) by ring]

/-- A field rendered with `hexN` parses back to its value. -/
theorem parseHexFrom_zero_hexN (lowerOk : Bool) {n w : Nat} (h : w < 16 ^ n) :
    parseHexFrom lowerOk 0 (hexN n w) = some w := by
  have := parseHexFrom_hexN lowerOk n 0 w [] h
  simpa [parseHexFrom] using this

/-- The value after parsing stays below the field's bound. -/
theorem parseHexFrom_lt {lowerOk : Bool} {v w n : Nat} {cs : List Byte} (hv : v < n)
    (h : parseHexFrom lowerOk v cs = some w) : w < n * 16 ^ cs.length := by
  induction cs generalizing v n with
  | nil => simp [parseHexFrom] at h; subst h; simpa using hv
  | cons c cs ih =>
    rw [parseHexFrom] at h
    split at h
    · rename_i d hd
      have := hexValue_lt hd
      have h2 := ih (n := 16 * n) (by omega) h
      rw [List.length_cons, pow_succ]
      linarith [show 16 * n * 16 ^ cs.length = n * (16 ^ cs.length * 16) by ring]
    · simp at h

theorem parseHex_lt {lowerOk : Bool} {w : Nat} {cs : List Byte} (h : parseHex lowerOk cs = some w) :
    w < 16 ^ cs.length := by
  have := parseHexFrom_lt (n := 1) (by omega) h
  simpa using this

end Sys2Proof.Machine
end

