-- ==== Sys2Proof/Laws/Memory.lean ====
section
/-! SUPPORT. Byte stores: reading after writing, and that every operation keeps the canonical form. -/

namespace Sys2Proof.Machine

theorem Memory.wfFrom_cons {lo k : Nat} {v : Byte} {m : Memory} :
    Memory.wfFrom lo ((k, v) :: m) = true ↔ lo ≤ k ∧ v ≠ Memory.unlisted ∧ Memory.wfFrom (k + 1) m = true := by
  simp [Memory.wfFrom, and_assoc]

theorem Memory.wfFrom_mono {lo lo' : Nat} {m : Memory} (h : Memory.wfFrom lo m = true) (hl : lo' ≤ lo) :
    Memory.wfFrom lo' m = true := by
  cases m with
  | nil => rfl
  | cons c m =>
    obtain ⟨k, v⟩ := c
    rw [Memory.wfFrom_cons] at h ⊢
    exact ⟨by omega, h.2⟩

/-- Below the first listed address every byte is unlisted. -/
theorem Memory.read_below {lo a : Nat} {m : Memory} (h : Memory.wfFrom lo m = true) (ha : a < lo) :
    Memory.read m a = Memory.unlisted := by
  induction m generalizing lo with
  | nil => rfl
  | cons c m ih =>
    obtain ⟨k, v⟩ := c
    rw [Memory.wfFrom_cons] at h
    rw [Memory.read, if_neg (by omega)]
    exact ih h.2.2 (by omega)

/-- A write keeps the canonical form. -/
theorem Memory.wfFrom_write {lo a : Nat} {b : Byte} {m : Memory} (h : Memory.wfFrom lo m = true) (ha : lo ≤ a) :
    Memory.wfFrom lo (Memory.write m a b) = true := by
  induction m generalizing lo with
  | nil =>
    rw [Memory.write]
    split
    · rfl
    · exact Memory.wfFrom_cons.mpr ⟨ha, ‹_›, rfl⟩
  | cons c m ih =>
    obtain ⟨k, v⟩ := c
    have hc := Memory.wfFrom_cons.mp h
    rw [Memory.write]
    split
    · split
      · exact h
      · exact Memory.wfFrom_cons.mpr ⟨ha, ‹_›, Memory.wfFrom_cons.mpr ⟨by omega, hc.2⟩⟩
    · split
      · split
        · exact Memory.wfFrom_mono hc.2.2 (by omega)
        · subst_vars
          exact Memory.wfFrom_cons.mpr ⟨ha, ‹_›, hc.2.2⟩
      · exact Memory.wfFrom_cons.mpr ⟨hc.1, hc.2.1, ih hc.2.2 (by omega)⟩

theorem Memory.wf_write {a : Nat} {b : Byte} {m : Memory} (h : Memory.wf m = true) :
    Memory.wf (Memory.write m a b) = true := Memory.wfFrom_write h (Nat.zero_le a)

/-- Reading after a write: the written byte at its address, every other byte as before. -/
theorem Memory.read_write {lo a c : Nat} {b : Byte} {m : Memory} (h : Memory.wfFrom lo m = true) :
    Memory.read (Memory.write m a b) c = if c = a then b else Memory.read m c := by
  induction m generalizing lo with
  | nil => by_cases hb : b = Memory.unlisted <;> simp [Memory.write, Memory.read, hb]
  | cons x m ih =>
    obtain ⟨k, v⟩ := x
    have hc := Memory.wfFrom_cons.mp h
    have below : ∀ d, d ≤ k → Memory.read m d = Memory.unlisted := fun d hd =>
      Memory.read_below hc.2.2 (by omega)
    rw [Memory.write]
    split
    · split
      · by_cases hca : c = a
        · rw [if_pos hca, Memory.read, if_neg (by omega), below c (by omega), ‹b = _›]
        · rw [if_neg hca]
      · simp only [Memory.read]
    · split
      · rename_i hak
        subst hak
        split
        · by_cases hca : c = a
          · rw [if_pos hca, below c (by omega), ‹b = _›]
          · rw [if_neg hca, Memory.read, if_neg hca]
        · by_cases hca : c = a <;> simp [Memory.read, hca]
      · rw [Memory.read, Memory.read, ih hc.2.2]
        by_cases hck : c = k
        · rw [if_pos hck, if_pos hck, if_neg (by omega)]
        · rw [if_neg hck, if_neg hck]

theorem Memory.wf_writeBytes {a : Nat} {bs : List Byte} {m : Memory} (h : Memory.wf m = true) :
    Memory.wf (Memory.writeBytes m a bs) = true := by
  induction bs generalizing a m with
  | nil => exact h
  | cons b bs ih => exact ih (Memory.wf_write h)

/-- Reading a byte after `MemWrite`. -/
theorem Memory.read_writeBytes {a c : Nat} {bs : List Byte} {m : Memory} (h : Memory.wf m = true) :
    Memory.read (Memory.writeBytes m a bs) c =
      if a ≤ c then (bs[c - a]?).getD (Memory.read m c) else Memory.read m c := by
  induction bs generalizing a m with
  | nil => simp [Memory.writeBytes]
  | cons b bs ih =>
    rw [Memory.writeBytes, ih (Memory.wf_write h), Memory.read_write h]
    rcases Nat.lt_trichotomy c a with hlt | heq | hgt
    · rw [if_neg (by omega), if_neg (by omega), if_neg (by omega)]
    · subst heq
      rw [if_neg (by omega), if_pos rfl, if_pos (Nat.le_refl c)]
      simp
    · rw [if_pos (by omega), if_neg (by omega), if_pos (by omega)]
      obtain ⟨n, rfl⟩ : ∃ n, c = a + 1 + n := ⟨c - a - 1, by omega⟩
      rw [show a + 1 + n - (a + 1) = n by omega, show a + 1 + n - a = n + 1 by omega, List.getElem?_cons_succ]

/-- A written entry lies at the written address, or was there before. -/
theorem Memory.mem_write {a : Nat} {b : Byte} {m : Memory} {c : Host.Cell} (h : c ∈ Memory.write m a b) :
    c.1 = a ∨ c ∈ m := by
  induction m with
  | nil =>
    rw [Memory.write] at h
    split at h
    · simp at h
    · simp at h; simp [h]
  | cons x m ih =>
    obtain ⟨k, v⟩ := x
    rw [Memory.write] at h
    split at h
    · split at h
      · exact .inr h
      · rcases List.mem_cons.mp h with rfl | h
        · exact .inl rfl
        · exact .inr h
    · split at h
      · split at h
        · exact .inr (List.mem_cons_of_mem _ h)
        · rcases List.mem_cons.mp h with rfl | h
          · exact .inl rfl
          · exact .inr (List.mem_cons_of_mem _ h)
      · rcases List.mem_cons.mp h with rfl | h
        · exact .inr List.mem_cons_self
        · exact (ih h).imp id (List.mem_cons_of_mem _)

/-- `MemWrite` lists no address past its last byte that was not listed before. -/
theorem Memory.mem_writeBytes {a bound : Nat} {bs : List Byte} {m : Memory}
    (hm : ∀ c ∈ m, c.1 < bound) (hb : a + bs.length ≤ bound) :
    ∀ c ∈ Memory.writeBytes m a bs, c.1 < bound := by
  induction bs generalizing a m with
  | nil => exact hm
  | cons b bs ih =>
    rw [List.length_cons] at hb
    refine ih (fun c hc => ?_) (by omega)
    rcases Memory.mem_write hc with h | h
    · omega
    · exact hm c h

@[simp] theorem Memory.length_readBytes (m : Memory) (a n : Nat) : (Memory.readBytes m a n).length = n := by
  induction n generalizing a with
  | zero => rfl
  | succ n ih => simp [Memory.readBytes, ih]

theorem Memory.readBytes_append (m : Memory) (a n k : Nat) :
    Memory.readBytes m a (n + k) = Memory.readBytes m a n ++ Memory.readBytes m (a + n) k := by
  induction n generalizing a with
  | zero => simp [Memory.readBytes]
  | succ n ih =>
    rw [show n + 1 + k = n + k + 1 by omega, Memory.readBytes, ih, Memory.readBytes, List.cons_append,
      show a + 1 + n = a + (n + 1) by omega]

/-- Two stores that agree on a range read the same bytes there. -/
theorem Memory.readBytes_congr {m m' : Memory} {a n : Nat}
    (h : ∀ c, a ≤ c → c < a + n → Memory.read m c = Memory.read m' c) :
    Memory.readBytes m a n = Memory.readBytes m' a n := by
  induction n generalizing a with
  | zero => rfl
  | succ n ih =>
    rw [Memory.readBytes, Memory.readBytes, h a (Nat.le_refl a) (by omega),
      ih (fun c hc hc' => h c (by omega) (by omega))]

/-- `MemRead` of what `MemWrite` wrote. -/
theorem Memory.readBytes_writeBytes_same {a : Nat} {bs : List Byte} {m : Memory} (h : Memory.wf m = true) :
    Memory.readBytes (Memory.writeBytes m a bs) a bs.length = bs := by
  induction bs generalizing a m with
  | nil => rfl
  | cons b bs ih =>
    rw [List.length_cons, Memory.readBytes, Memory.read_writeBytes h, Memory.writeBytes, ih (Memory.wf_write h)]
    simp

/-- `MemRead` below what `MemWrite` wrote. -/
theorem Memory.readBytes_writeBytes_below {a c n : Nat} {bs : List Byte} {m : Memory} (h : Memory.wf m = true)
    (hc : c + n ≤ a) : Memory.readBytes (Memory.writeBytes m a bs) c n = Memory.readBytes m c n := by
  refine Memory.readBytes_congr fun d hd hd' => ?_
  rw [Memory.read_writeBytes h, if_neg (by omega)]

/-- A part of what `MemWrite` wrote. -/
theorem Memory.readBytes_writeBytes_inside {a k n : Nat} {bs : List Byte} {m : Memory} (h : Memory.wf m = true)
    (hk : k + n ≤ bs.length) :
    Memory.readBytes (Memory.writeBytes m a bs) (a + k) n = (bs.drop k).take n := by
  have hsplit := Memory.readBytes_writeBytes_same (a := a) (bs := bs) h
  rw [show bs.length = k + (n + (bs.length - k - n)) by omega, Memory.readBytes_append,
    Memory.readBytes_append] at hsplit
  have h1 := congrArg (fun l => (l.drop k).take n) hsplit
  simpa using h1

end Sys2Proof.Machine
end

