-- ==== Sys2Proof/Laws/PerInstr.lean ====
section
/-! SUPPORT. A fact about every instruction, one lemma a constructor: the encoder's byte lies in the instruction's row
of spec/opcode_table.json. -/

namespace Sys2Proof.Laws.TableRow

/-- The `mask` of an instruction's row in spec/opcode_table.json. -/
def rowMask : Instr → Byte
  | .encReq _ _ _ _ => 0x8F
  | .encRsp _ _ _ _ => 0x8F
  | .encSip _ _ _ => 0x8F
  | .encCep _ _ _ => 0x8F
  | .decRecv => 0xFF
  | .chkCompute _ _ _ => 0x8F
  | .chanOpenCmd => 0xFF
  | .chanCloseCmd => 0xFF
  | .reservedOp0 _ => 0x0F
  | .reservedOp9 _ => 0x0F
  | .reservedOpA _ => 0x0F
  | .reservedOpB _ => 0x0F
  | .reservedOpC _ => 0x0F
  | .reservedOpD _ => 0x0F
  | .reservedOpE _ => 0x0F
  | .reservedOpF _ => 0x0F
  | .reservedBit7 _ => 0x80
  | .reservedAlg67 _ => 0xE0
  | .reservedDecRecvAlg _ => 0x8F
  | .reservedChanOpenAlg _ => 0x8F
  | .reservedChanCloseAlg _ => 0x8F
  | .wireKindRequest => 0xFF
  | .wireKindResponse => 0xFF
  | .wireKindInterrupt => 0xFF
  | .wireKindCommError => 0xFF
  | .wireEcaNone => 0xFF
  | .wireEcaXor8 => 0xFF
  | .wireEcaChecksum16 => 0xFF
  | .wireEcaLrc16 => 0xFF
  | .wireEcaFletcher16 => 0xFF
  | .wireEcaCrc16 => 0xFF
  | .wireSentinel => 0xFF

/-- The `match` of an instruction's row in spec/opcode_table.json. -/
def rowMatch : Instr → Byte
  | .encReq _ _ _ _ => 0x01
  | .encRsp _ _ _ _ => 0x02
  | .encSip _ _ _ => 0x03
  | .encCep _ _ _ => 0x04
  | .decRecv => 0x05
  | .chkCompute _ _ _ => 0x06
  | .chanOpenCmd => 0x07
  | .chanCloseCmd => 0x08
  | .reservedOp0 _ => 0x00
  | .reservedOp9 _ => 0x09
  | .reservedOpA _ => 0x0A
  | .reservedOpB _ => 0x0B
  | .reservedOpC _ => 0x0C
  | .reservedOpD _ => 0x0D
  | .reservedOpE _ => 0x0E
  | .reservedOpF _ => 0x0F
  | .reservedBit7 _ => 0x80
  | .reservedAlg67 _ => 0x60
  | .reservedDecRecvAlg _ => 0x05
  | .reservedChanOpenAlg _ => 0x07
  | .reservedChanCloseAlg _ => 0x08
  | .wireKindRequest => 0x3F
  | .wireKindResponse => 0x23
  | .wireKindInterrupt => 0x21
  | .wireKindCommError => 0x7E
  | .wireEcaNone => 0x30
  | .wireEcaXor8 => 0x31
  | .wireEcaChecksum16 => 0x32
  | .wireEcaLrc16 => 0x33
  | .wireEcaFletcher16 => 0x34
  | .wireEcaCrc16 => 0x35
  | .wireSentinel => 0x21

/-- The encoder's byte for `i` has the bits that the row of `i` in the opcode table fixes. -/
def Statement (i : Instr) : Prop := (encode i).byte &&& rowMask i = rowMatch i

theorem encReq (alg : Alg) (dev lreq : Word) (pbuf : List Byte) : Statement (.encReq alg dev lreq pbuf) := by
  simp only [Statement, encode, rowMask, rowMatch]
  cases alg <;> decide
theorem encRsp (alg : Alg) (dev lreq : Word) (pbuf : List Byte) : Statement (.encRsp alg dev lreq pbuf) := by
  simp only [Statement, encode, rowMask, rowMatch]
  cases alg <;> decide
theorem encSip (alg : Alg) (dev code : Word) : Statement (.encSip alg dev code) := by
  simp only [Statement, encode, rowMask, rowMatch]
  cases alg <;> decide
theorem encCep (alg : Alg) (dev code : Word) : Statement (.encCep alg dev code) := by
  simp only [Statement, encode, rowMask, rowMatch]
  cases alg <;> decide
theorem decRecv : Statement .decRecv := rfl
theorem chkCompute (alg : Alg) (dbuf : List Byte) (n : Nat) : Statement (.chkCompute alg dbuf n) := by
  simp only [Statement, encode, rowMask, rowMatch]
  cases alg <;> decide
theorem chanOpenCmd : Statement .chanOpenCmd := rfl
theorem chanCloseCmd : Statement .chanCloseCmd := rfl
theorem reservedOp0 (hi : BitVec 4) : Statement (.reservedOp0 hi) := by
  unfold Statement; revert hi; decide
theorem reservedOp9 (hi : BitVec 4) : Statement (.reservedOp9 hi) := by
  unfold Statement; revert hi; decide
theorem reservedOpA (hi : BitVec 4) : Statement (.reservedOpA hi) := by
  unfold Statement; revert hi; decide
theorem reservedOpB (hi : BitVec 4) : Statement (.reservedOpB hi) := by
  unfold Statement; revert hi; decide
theorem reservedOpC (hi : BitVec 4) : Statement (.reservedOpC hi) := by
  unfold Statement; revert hi; decide
theorem reservedOpD (hi : BitVec 4) : Statement (.reservedOpD hi) := by
  unfold Statement; revert hi; decide
theorem reservedOpE (hi : BitVec 4) : Statement (.reservedOpE hi) := by
  unfold Statement; revert hi; decide
theorem reservedOpF (hi : BitVec 4) : Statement (.reservedOpF hi) := by
  unfold Statement; revert hi; decide
theorem reservedBit7 (low : BitVec 7) : Statement (.reservedBit7 low) := by
  unfold Statement; revert low; decide
theorem reservedAlg67 (low : BitVec 5) : Statement (.reservedAlg67 low) := by
  unfold Statement; revert low; decide
theorem reservedDecRecvAlg (alg : BitVec 3) : Statement (.reservedDecRecvAlg alg) := by
  unfold Statement; revert alg; decide
theorem reservedChanOpenAlg (alg : BitVec 3) : Statement (.reservedChanOpenAlg alg) := by
  unfold Statement; revert alg; decide
theorem reservedChanCloseAlg (alg : BitVec 3) : Statement (.reservedChanCloseAlg alg) := by
  unfold Statement; revert alg; decide
theorem wireKindRequest : Statement .wireKindRequest := rfl
theorem wireKindResponse : Statement .wireKindResponse := rfl
theorem wireKindInterrupt : Statement .wireKindInterrupt := rfl
theorem wireKindCommError : Statement .wireKindCommError := rfl
theorem wireEcaNone : Statement .wireEcaNone := rfl
theorem wireEcaXor8 : Statement .wireEcaXor8 := rfl
theorem wireEcaChecksum16 : Statement .wireEcaChecksum16 := rfl
theorem wireEcaLrc16 : Statement .wireEcaLrc16 := rfl
theorem wireEcaFletcher16 : Statement .wireEcaFletcher16 := rfl
theorem wireEcaCrc16 : Statement .wireEcaCrc16 := rfl
theorem wireSentinel : Statement .wireSentinel := rfl

end Sys2Proof.Laws.TableRow
end

