-- ==== Sys2Proof/Laws/Step.lean ====
section
/-! SUPPORT. What one step of the machine can be. -/

namespace Sys2Proof.Machine

variable {s t u : State}

/-- The inputs that leave the turn to the codec: none at all, a codec step, or a wait for `DONE`, which stays. -/
def CodecTurn (s v : State) : Prop :=
  (s.events = [] ∧ v = s) ∨ (∃ es, s.events = .codec :: es ∧ v = { s with events := es }) ∨
  (∃ k es, s.events = .awaitDone k :: es ∧ s.phase ≠ .done ∧ v = s)

theorem CodecTurn.phase {v : State} (h : CodecTurn s v) : v.phase = s.phase := by
  obtain ⟨-, rfl⟩ | ⟨es, -, rfl⟩ | ⟨k, es, -, -, rfl⟩ := h <;> rfl

/-- The codec's turn runs the command in progress, after what the channel supplies before it. -/
theorem fetchCodec_busy {i : Instr} (h : s.phase = .busy i) : fetchCodec s = .run i (supplyNext s) := by
  simp [fetchCodec, h]

/-- The codec's turn of a block that is not `BUSY`. -/
theorem fetchCodec_ready (h : isBusy s = false) : fetchCodec s = .input (.next (supplyNext s)) := by
  cases hp : s.phase with
  | idle => simp [fetchCodec, hp]
  | busy i => simp [isBusy, hp] at h
  | done => simp [fetchCodec, hp]

/-- What the codec's turn can be. -/
theorem fetchCodec_cases (s : State) :
    (∃ i, s.phase = .busy i ∧ fetchCodec s = .run i (supplyNext s)) ∨
    (isBusy s = false ∧ fetchCodec s = .input (.next (supplyNext s))) := by
  cases hp : s.phase with
  | idle => exact .inr ⟨by simp [isBusy, hp], by simp [fetchCodec, hp]⟩
  | busy i => exact .inl ⟨i, rfl, fetchCodec_busy hp⟩
  | done => exact .inr ⟨by simp [isBusy, hp], by simp [fetchCodec, hp]⟩

/-- What a step does, by its next input: the codec's turn, or the input's own effect. -/
theorem fetch_cases (s : State) :
    (∃ v, CodecTurn s v ∧ fetch s = fetchCodec v) ∨
    (∃ w p es, s.events = .command w p :: es ∧ fetch s = fetchCommand w p { s with events := es }) ∨
    (∃ v es, s.events = .writeRto v :: es ∧ fetch s = .input (.next (writeRto v { s with events := es }))) ∨
    (∃ r es, s.events = .read r :: es ∧ fetch s = .input (hostRead r { s with events := es })) ∨
    (∃ bs es, s.events = .arrive bs :: es ∧ fetch s = .input (.next (arrive bs { s with events := es }))) ∨
    (∃ f es, s.events = .supply f :: es ∧ fetch s = .input (.next { s with events := es, supply := f })) ∨
    (∃ es, s.events = .reset :: es ∧ fetch s = .input (.next (resetBlock { s with events := es }))) ∨
    (∃ k es, s.events = .awaitDone k :: es ∧ s.phase = .done ∧
      fetch s = .input (.next { s with events := (followUp k s).map .read ++ es })) := by
  cases he : s.events with
  | nil => exact .inl ⟨s, .inl ⟨he, rfl⟩, by simp [fetch, he]⟩
  | cons e es =>
    cases e with
    | codec => exact .inl ⟨_, .inr (.inl ⟨es, he, rfl⟩), by simp [fetch, he, fetchEvent]⟩
    | command w p => exact .inr (.inl ⟨w, p, es, rfl, by simp [fetch, he, fetchEvent]⟩)
    | writeRto v => exact .inr (.inr (.inl ⟨v, es, rfl, by simp [fetch, he, fetchEvent]⟩))
    | read r => exact .inr (.inr (.inr (.inl ⟨r, es, rfl, by simp [fetch, he, fetchEvent]⟩)))
    | arrive bs => exact .inr (.inr (.inr (.inr (.inl ⟨bs, es, rfl, by simp [fetch, he, fetchEvent]⟩))))
    | supply f => exact .inr (.inr (.inr (.inr (.inr (.inl ⟨f, es, rfl, by simp [fetch, he, fetchEvent]⟩)))))
    | reset => exact .inr (.inr (.inr (.inr (.inr (.inr (.inl ⟨es, rfl, by simp [fetch, he, fetchEvent]⟩))))))
    | awaitDone k =>
      cases hp : s.phase with
      | idle =>
        exact .inl ⟨s, .inr (.inr ⟨k, es, he, by simp [hp], rfl⟩), by simp [fetch, he, fetchEvent, fetchAwait, hp]⟩
      | busy i =>
        exact .inl ⟨s, .inr (.inr ⟨k, es, he, by simp [hp], rfl⟩), by simp [fetch, he, fetchEvent, fetchAwait, hp]⟩
      | done =>
        exact .inr (.inr (.inr (.inr (.inr (.inr (.inr
          ⟨k, es, rfl, rfl, by simp [fetch, he, fetchEvent, fetchAwait, hp]⟩))))))

/-- When a step runs an instruction: the command in progress at the codec's turn, or a command the host presents to a
block that is not `BUSY`. -/
theorem fetch_run {i : Instr} (h : fetch s = .run i u) :
    (s.phase = .busy i ∧ ∃ v, CodecTurn s v ∧ u = supplyNext v) ∨
    (isBusy s = false ∧ ∃ w p es, s.events = .command w p :: es ∧ i = decodeCommand w p ∧
      u = { s with events := es }) := by
  obtain ⟨v, hv, hf⟩ | ⟨w, p, es, he, hf⟩ | ⟨_, _, _, hf⟩ | ⟨_, _, _, hf⟩ | ⟨_, _, _, hf⟩ | ⟨_, _, _, hf⟩ |
    ⟨_, _, hf⟩ | ⟨_, _, _, _, hf⟩ := fetch_cases s <;> rw [hf] at h
  · obtain ⟨j, hp, hj⟩ | ⟨-, hj⟩ := fetchCodec_cases v <;> rw [hj] at h
    · simp only [Fetched.run.injEq] at h
      exact .inl ⟨by rw [← hv.phase, hp, h.1], v, hv, h.2.symm⟩
    · simp at h
  · simp only [fetchCommand] at h
    split at h
    · simp at h
    · simp only [Fetched.run.injEq] at h
      exact .inr ⟨by simpa using ‹¬isBusy _ = true›, w, p, es, he, h.1.symm, h.2.symm⟩
  all_goals simp at h

/-- A host read that returns changes only the record of the host's reads. -/
theorem hostRead_next {r : HostReg} (h : hostRead r s = .next t) :
    ∃ n, t = { s with hostReads := s.hostReads ++ [(r, n)] } := by
  have out : ∀ (v : Option Nat), readOut r v s = .next t → ∃ n, t = { s with hostReads := s.hostReads ++ [(r, n)] } := by
    intro v hv
    cases v with
    | none => simp [readOut] at hv
    | some n => simp [readOut] at hv; exact ⟨n, hv.symm⟩
  cases r <;> simp only [hostRead] at h
  case diagCause =>
    split at h
    · exact out _ h
    · simp at h
  all_goals exact out _ h

/-- What a step that runs no instruction can do. -/
theorem fetch_input (h : fetch s = .input (.next t)) :
    (isBusy s = false ∧ ∃ v, CodecTurn s v ∧ t = supplyNext v) ∨
    (isBusy s = true ∧ ∃ w p es, s.events = .command w p :: es ∧ t = refuseRequest { s with events := es }) ∨
    (∃ v es, s.events = .writeRto v :: es ∧ t = writeRto v { s with events := es }) ∨
    (∃ r n es, s.events = .read r :: es ∧ t = { s with events := es, hostReads := s.hostReads ++ [(r, n)] }) ∨
    (∃ bs es, s.events = .arrive bs :: es ∧ t = arrive bs { s with events := es }) ∨
    (∃ f es, s.events = .supply f :: es ∧ t = { s with events := es, supply := f }) ∨
    (∃ es, s.events = .reset :: es ∧ t = resetBlock { s with events := es }) ∨
    (∃ k es, s.events = .awaitDone k :: es ∧ s.phase = .done ∧
      t = { s with events := (followUp k s).map .read ++ es }) := by
  obtain ⟨v, hv, hf⟩ | ⟨w, p, es, he, hf⟩ | ⟨v, es, he, hf⟩ | ⟨r, es, he, hf⟩ | ⟨bs, es, he, hf⟩ | ⟨f, es, he, hf⟩ |
    ⟨es, he, hf⟩ | ⟨k, es, he, hp, hf⟩ := fetch_cases s <;> rw [hf] at h
  · obtain ⟨j, -, hj⟩ | ⟨hb, hj⟩ := fetchCodec_cases v <;> rw [hj] at h
    · simp at h
    · simp at h
      exact .inl ⟨by rw [← hb, isBusy, isBusy, hv.phase], v, hv, h.symm⟩
  · simp only [fetchCommand] at h
    split at h
    · simp at h
      exact .inr (.inl ⟨‹isBusy _ = true›, w, p, es, he, h.symm⟩)
    · simp at h
  · simp at h
    exact .inr (.inr (.inl ⟨v, es, he, h.symm⟩))
  · simp only [Fetched.input.injEq] at h
    obtain ⟨n, rfl⟩ := hostRead_next h
    exact .inr (.inr (.inr (.inl ⟨r, n, es, he, rfl⟩)))
  · simp at h
    exact .inr (.inr (.inr (.inr (.inl ⟨bs, es, he, h.symm⟩))))
  · simp at h
    exact .inr (.inr (.inr (.inr (.inr (.inl ⟨f, es, he, h.symm⟩)))))
  · simp at h
    exact .inr (.inr (.inr (.inr (.inr (.inr (.inl ⟨es, he, h.symm⟩))))))
  · simp at h
    exact .inr (.inr (.inr (.inr (.inr (.inr (.inr ⟨k, es, he, hp, h.symm⟩))))))

/-- A step runs what `fetch` gives. -/
theorem step_run {i : Instr} (h : fetch s = .run i u) : step s = exec i u := by simp [step, h]

/-- Everything a step can answer with a next state. -/
theorem step_next (h : step s = .next t) :
    (∃ i u, fetch s = .run i u ∧ exec i u = .next t) ∨ fetch s = .input (.next t) := by
  unfold step at h
  split at h
  · exact .inl ⟨_, _, ‹_›, h⟩
  · subst h; exact .inr ‹_›

/-- The codec's turn while a command is in progress: no input left, or a wait for `DONE` at the head. -/
theorem step_executing {i : Instr} (hp : s.phase = .busy i)
    (he : s.events = [] ∨ ∃ k es, s.events = .awaitDone k :: es) : step s = exec i (supplyNext s) := by
  refine step_run ?_
  obtain he | ⟨k, es, he⟩ := he <;> simp [fetch, he, fetchEvent, fetchAwait, fetchCodec, hp]

/-- The codec's turn between two inputs. -/
theorem step_codec {i : Instr} {es : List Event} (hp : s.phase = .busy i) (he : s.events = .codec :: es) :
    step s = exec i (supplyNext { s with events := es }) :=
  step_run (by simp [fetch, he, fetchEvent, fetchCodec, hp])

/-- The wait for `DONE` ends: the reads the host waited to make come next. -/
theorem step_awaitDone {k : AfterDone} {es : List Event} (hp : s.phase = .done) (he : s.events = .awaitDone k :: es) :
    step s = .next { s with events := (followUp k s).map .read ++ es } := by
  simp [step, fetch, he, fetchEvent, fetchAwait, hp]

/-- A host read. -/
theorem step_read {r : HostReg} {es : List Event} (he : s.events = .read r :: es) :
    step s = hostRead r { s with events := es } := by
  simp [step, fetch, he, fetchEvent]

/-- A command presented to a block that is not `BUSY`. -/
theorem step_command {w : Byte} {p : Ports} {es : List Event} (hb : isBusy s = false)
    (he : s.events = .command w p :: es) : step s = exec (decodeCommand w p) { s with events := es } := by
  refine step_run ?_
  simp only [fetch, he, fetchEvent, fetchCommand]
  rw [if_neg]
  simpa [isBusy] using hb

/-- A run whose first step goes on. -/
theorem run_succ_next {n : Nat} (h : step s = .next t) :
    Host.Core.run Sys2Proof.core (n + 1) s = Host.Core.run Sys2Proof.core n t := by
  have hc : Sys2Proof.core.step s = .next t := h
  simp only [Host.Core.run, hc]

/-- A command word that is none of the eight commands is refused. -/
theorem exec_reserved {i : Instr} (hc : i.isCommand = false) (hw : (encode i).slot = .command) (s : State) :
    exec i s = .next (refuseRequest s) := by
  cases i
  case encReq | encRsp | encSip | encCep | decRecv | chkCompute | chanOpenCmd | chanCloseCmd =>
    simp [Instr.isCommand] at hc
  case wireKindRequest | wireKindResponse | wireKindInterrupt | wireKindCommError | wireEcaNone | wireEcaXor8 |
      wireEcaChecksum16 | wireEcaLrc16 | wireEcaFletcher16 | wireEcaCrc16 | wireSentinel =>
    simp [encode] at hw
  all_goals rfl

end Sys2Proof.Machine
end

