-- ==== Sys2Proof/Tests/Slice0.lean ====
section
/-! SUPPORT. Tests: the well-formedness check refuses each kind of ill-formed term; each constructor's word, written out
from spec/30_encoding.md R92, R93 and R120, decodes to it; single steps against the vectors of spec/95_test_vectors.md;
and, for each statement that has hypotheses, a concrete state and operands that meet them all together. -/

namespace Sys2Proof.Tests

open Sys2Proof.Machine

/-! ## Helpers -/

/-- The decided parameters with concrete values for the OPEN ones. -/
def params : Params :=
  { Config.decided with readTimeout := 3, adapterEca := .crc16, rtoWidth := 16, tickWidth := 17 }

/-- The reset state with those parameters. -/
def ready : State := { State.reset with cfg := params, cfgRto := 3 }

/-- An idle block with an open channel. -/
def opened : State := { ready with chanOpen := true }

/-- A block executing a command. -/
def busy (i : Instr) (s : State) : State := { s with phase := .busy i, op := opcode i }

/-- A block receiving, in a given decoder state, with a part of a frame read, and the bytes still in `RX`. -/
def receiving (w : DecState) (need : Nat) (read rx : List Byte) : State :=
  { busy .decRecv opened with st := w, need := need, fb := Memory.writeBytes [] 0 read, fbn := read.length, rx := rx }

/-- A field of the next state, where there is one. -/
def onNext {α : Type} (o : Host.Outcome State Fault Refusal) (f : State → α) : Option α :=
  match o with
  | .next s => some (f s)
  | .fault _ => none
  | .refused _ => none

/-! ## The well-formedness check -/

theorem test_wf_pbuf_too_long : (Instr.encReq .none 0 0 (List.replicate 4097 0)).wf = false := by
  rw [Instr.wf, List.length_replicate]; decide
theorem test_wf_pbuf_too_long_response : (Instr.encRsp .none 0 0 (List.replicate 4097 0)).wf = false := by
  rw [Instr.wf, List.length_replicate]; decide
theorem test_wf_dbuf_too_long : (Instr.chkCompute .none (List.replicate 4111 0) 0).wf = false := by
  rw [Instr.wf, List.length_replicate]; decide
theorem test_wf_n_in_above_dbuf : (Instr.chkCompute .xor8 [0x41, 0x42] 3).wf = false := by decide
theorem test_wf_reserved_op_with_alg_6 : (Instr.reservedOp0 6).wf = false := by decide
theorem test_wf_reserved_op_with_bit_7 : (Instr.reservedOpF 8).wf = false := by decide
theorem test_wf_reserved_alg_zero : (Instr.reservedDecRecvAlg 0).wf = false := by decide
theorem test_wf_reserved_alg_6 : (Instr.reservedChanOpenAlg 6).wf = false := by decide
theorem test_wf_reserved_alg_7 : (Instr.reservedChanCloseAlg 7).wf = false := by decide

/-! ## Decoding: a word written out for each constructor -/

theorem test_decode_enc_req : decodeTableWord 8 0b01010001 = some (.encReq .crc16 0 0 []) := by decide
theorem test_decode_enc_rsp : decodeTableWord 8 0b01000010 = some (.encRsp .fletcher16 0 0 []) := by decide
theorem test_decode_enc_sip : decodeTableWord 8 0b00010011 = some (.encSip .xor8 0 0) := by decide
theorem test_decode_enc_cep : decodeTableWord 8 0b00110100 = some (.encCep .lrc16 0 0) := by decide
theorem test_decode_dec_recv : decodeTableWord 8 0b00000101 = some .decRecv := by decide
theorem test_decode_chk_compute : decodeTableWord 8 0b00100110 = some (.chkCompute .checksum16 [] 0) := by decide
theorem test_decode_chan_open : decodeTableWord 8 0b00000111 = some .chanOpenCmd := by decide
theorem test_decode_chan_close : decodeTableWord 8 0b00001000 = some .chanCloseCmd := by decide
theorem test_decode_reserved_op_0 : decodeTableWord 8 0b00000000 = some (.reservedOp0 0) := by decide
theorem test_decode_reserved_op_9 : decodeTableWord 8 0b01011001 = some (.reservedOp9 5) := by decide
theorem test_decode_reserved_op_a : decodeTableWord 8 0b00001010 = some (.reservedOpA 0) := by decide
theorem test_decode_reserved_op_b : decodeTableWord 8 0b00011011 = some (.reservedOpB 1) := by decide
theorem test_decode_reserved_op_c : decodeTableWord 8 0b00101100 = some (.reservedOpC 2) := by decide
theorem test_decode_reserved_op_d : decodeTableWord 8 0b00111101 = some (.reservedOpD 3) := by decide
theorem test_decode_reserved_op_e : decodeTableWord 8 0b01001110 = some (.reservedOpE 4) := by decide
theorem test_decode_reserved_op_f : decodeTableWord 8 0b00001111 = some (.reservedOpF 0) := by decide
theorem test_decode_reserved_bit7 : decodeTableWord 8 0b10000001 = some (.reservedBit7 1) := by decide
theorem test_decode_reserved_alg : decodeTableWord 8 0b01100110 = some (.reservedAlg67 6) := by decide
theorem test_decode_reserved_dec_recv_alg : decodeTableWord 8 0b00010101 = some (.reservedDecRecvAlg 1) := by decide
theorem test_decode_reserved_chan_open_alg : decodeTableWord 8 0b01010111 = some (.reservedChanOpenAlg 5) := by decide
theorem test_decode_reserved_chan_close_alg : decodeTableWord 8 0b00101000 = some (.reservedChanCloseAlg 2) := by decide
theorem test_decode_wire_kind_request : decode .frameByte1 0b00111111 Ports.zero = .ok .wireKindRequest := by rfl
theorem test_decode_wire_kind_response : decode .frameByte1 0b00100011 Ports.zero = .ok .wireKindResponse := by rfl
theorem test_decode_wire_kind_interrupt : decode .frameByte1 0b00100001 Ports.zero = .ok .wireKindInterrupt := by rfl
theorem test_decode_wire_kind_commerror : decode .frameByte1 0b01111110 Ports.zero = .ok .wireKindCommError := by rfl
theorem test_decode_wire_eca_none : decode .frameByte2 0b00110000 Ports.zero = .ok .wireEcaNone := by rfl
theorem test_decode_wire_eca_xor8 : decode .frameByte2 0b00110001 Ports.zero = .ok .wireEcaXor8 := by rfl
theorem test_decode_wire_eca_checksum16 : decode .frameByte2 0b00110010 Ports.zero = .ok .wireEcaChecksum16 := by rfl
theorem test_decode_wire_eca_lrc16 : decode .frameByte2 0b00110011 Ports.zero = .ok .wireEcaLrc16 := by rfl
theorem test_decode_wire_eca_fletcher16 : decode .frameByte2 0b00110100 Ports.zero = .ok .wireEcaFletcher16 := by rfl
theorem test_decode_wire_eca_crc16 : decode .frameByte2 0b00110101 Ports.zero = .ok .wireEcaCrc16 := by rfl
theorem test_decode_wire_sentinel : decode .frameByte0 0b00100001 Ports.zero = .ok .wireSentinel := by rfl
theorem test_decode_rejects_bad_kind : decode .frameByte1 0x2A Ports.zero = .error .badKind := by rfl
theorem test_decode_rejects_bad_eca : decode .frameByte2 0x36 Ports.zero = .error .badEca := by rfl
theorem test_decode_rejects_no_sentinel : decode .frameByte0 0x78 Ports.zero = .error .notSentinel := by rfl
theorem test_decode_table_word_width : decodeTableWord 16 0x51 = none ∧ decodeTableWord 8 0x151 = none := by decide

/-! ## Single steps, against the spec's vectors -/

/-- V-E1, Request, alg 5: `!?5123002AB3478` CR LF. -/
theorem test_enc_req_frame : onNext (exec (.encReq .crc16 0x123 2 [0x41, 0x42])
      (busy (.encReq .crc16 0x123 2 [0x41, 0x42]) opened)) (fun s => (s.tx, s.checkOut, (statusWord s).toNat)) =
    some ([0x21, 0x3F, 0x35, 0x31, 0x32, 0x33, 0x30, 0x30, 0x32, 0x41, 0x42, 0x33, 0x34, 0x37, 0x38, 0x0D, 0x0A],
      some 0x3478, 0x46) := by decide +kernel
/-- L1-4, `P_FIELD_OVERFLOW = SATURATE`: 0x1234 renders `FFF`. -/
theorem test_enc_req_saturates : onNext (exec (.encReq .crc16 0x1234 2 [0x41, 0x42])
      { busy (.encReq .crc16 0x1234 2 [0x41, 0x42]) opened with cfg := { params with fieldOverflow := .saturate } })
      (fun s => s.tx) =
    some [0x21, 0x3F, 0x35, 0x46, 0x46, 0x46, 0x30, 0x30, 0x32, 0x41, 0x42, 0x39, 0x34, 0x30, 0x31, 0x0D, 0x0A] := by
  decide +kernel
/-- L1-4: `!#4FFF000EFDB` CR LF. -/
theorem test_enc_rsp_frame : onNext (exec (.encRsp .fletcher16 0xFFF 0 [])
      (busy (.encRsp .fletcher16 0xFFF 0 []) opened)) (fun s => (s.tx, s.checkOut)) =
    some ([0x21, 0x23, 0x34, 0x46, 0x46, 0x46, 0x30, 0x30, 0x30, 0x45, 0x46, 0x44, 0x42, 0x0D, 0x0A], some 0xEFDB) := by
  decide +kernel
/-- L1-7: `!!1123FF0001` CR LF. -/
theorem test_enc_sip_frame : onNext (exec (.encSip .xor8 0x123 255) (busy (.encSip .xor8 0x123 255) opened))
      (fun s => (s.tx, s.checkOut)) =
    some ([0x21, 0x21, 0x31, 0x31, 0x32, 0x33, 0x46, 0x46, 0x30, 0x30, 0x30, 0x31, 0x0D, 0x0A], some 1) := by
  decide +kernel
/-- P4 step 1: a closed channel. -/
theorem test_enc_sip_closed : onNext (exec (.encSip .xor8 1 2) (busy (.encSip .xor8 1 2) ready))
    (fun s => (s.tx, s.checkOut, (statusWord s).toNat)) = some ([], none, 0x0E) := by decide
/-- P4 step 4: `!~300A3CFE17` CR LF. -/
theorem test_enc_cep_frame : onNext (exec (.encCep .lrc16 0x00A 0x3C) (busy (.encCep .lrc16 0x00A 0x3C) opened))
      (fun s => (s.tx, s.checkOut, (statusWord s).toNat)) =
    some ([0x21, 0x7E, 0x33, 0x30, 0x30, 0x41, 0x33, 0x43, 0x46, 0x45, 0x31, 0x37, 0x0D, 0x0A], some 0xFE17, 0x52) := by
  decide +kernel
/-- V-D1, the body poll: `!?5123002` read, `AB3478` CR LF in `RX`. -/
theorem test_dec_recv_accepts : onNext (exec .decRecv
      { receiving .waitBody 8 [0x21, 0x3F, 0x35, 0x31, 0x32, 0x33, 0x30, 0x30, 0x32]
          [0x41, 0x42, 0x33, 0x34, 0x37, 0x38, 0x0D, 0x0A] with hKind := 0x3F, hEca := .crc16, hDev := 0x123, hLen := 2 })
      (fun s => ((s.resKind, s.resDev, s.resCol), s.resPayload, s.resEca, s.diagCause)) =
    some ((some .request, some 0x123, some 2), [0x41, 0x42], some .crc16, some .accepted) := by decide +kernel
/-- V-D11: a header that is bad in its ECA digit and in its kind is rejected for the digit. -/
theorem test_dec_recv_rejects : onNext (exec .decRecv
      (receiving .waitHdr 5 [0x21] [0x2A, 0x39, 0x31, 0x32, 0x33, 0x30]))
      (fun s => (s.resKind, s.diagCause, s.fbn, s.rx, s.ok)) =
    some (some .timeout, some .badEca, 6, [0x30], false) := by decide +kernel
/-- V-C8: the check value of `123456789` under Crc16. -/
theorem test_chk_compute_crc : compute params .crc16 [0x31, 0x32, 0x33, 0x34, 0x35, 0x36, 0x37, 0x38, 0x39] = 0x4B37 := by
  decide +kernel
/-- V-H9: the whole signed sum. -/
theorem test_chk_compute_signed_sum : onNext (exec (.chkCompute .checksum16 [0xFF, 0xFF] 2)
    (busy (.chkCompute .checksum16 [0xFF, 0xFF] 2) ready)) (fun s => s.checkOut) = some (some 0xFFFFFFFE) := by
  decide +kernel
/-- V-H1: the channel answers true. -/
theorem test_chan_open_granted : onNext (exec .chanOpenCmd (busy .chanOpenCmd { ready with tape := [1] }))
    (fun s => (s.chanOpen, (statusWord s).toNat)) = some (true, 0x5E) := by decide
/-- V-H2: the channel answers false. -/
theorem test_chan_open_refused : onNext (exec .chanOpenCmd (busy .chanOpenCmd { ready with tape := [0] }))
    (fun s => (s.chanOpen, (statusWord s).toNat)) = some (false, 0x1E) := by decide
/-- V-H4: the channel is closed. -/
theorem test_chan_close : onNext (exec .chanCloseCmd (busy .chanCloseCmd opened))
    (fun s => (s.chanOpen, (statusWord s).toNat)) = some (false, 0x62) := by decide
/-- V-H5: closing a closed channel. -/
theorem test_chan_close_closed : onNext (exec .chanCloseCmd (busy .chanCloseCmd { ready with rx := [0x41] }))
    (fun s => (s.rx, s.ok)) = some ([0x41], true) := by decide
/-- V-H11, V-H12, V-H13: reserved words, presented. -/
theorem test_reserved_words_refused : ∀ w ∈ [0x66, 0x15, 0x00, 0x09, 0x0A, 0x0B, 0x0C, 0x0D, 0x0E, 0x0F, 0x17, 0x28, 0x80],
    onNext (step (ready.withFetchWord 8 w)) (fun s => (isBusy s, (statusWord s).toNat, s.refusalMark)) =
      some (false, 0, true) := by decide
/-- V-H14: a command presented while `BUSY` is refused, and the busy command continues. -/
theorem test_command_while_busy : step { busy (.encSip .xor8 1 2) ready with events := [.command 0x05 Ports.zero] } =
    .next { busy (.encSip .xor8 1 2) ready with refusalMark := true } := rfl
theorem test_busy_command_continues : onNext (step { busy (.encSip .xor8 1 2) ready with refusalMark := true })
    (fun s => ((statusWord s).toNat, s.refusalMark)) = some (0x0E, true) := by decide
/-- 10_state.md R43: a `CFG_RTO` write while `BUSY` is refused. -/
theorem test_rto_write_while_busy : onNext (step { busy .decRecv ready with events := [.writeRto 9] })
    (fun s => (s.cfgRto, s.refusalMark, isBusy s)) = some (3, true, true) := by decide
/-- 20_memory.md R76: `N_IN` above the length of `DBUF`. -/
theorem test_n_in_above_dbuf_refused : onNext (exec (.chkCompute .xor8 [0x41] 2) ready)
    (fun s => (isBusy s, s.refusalMark, s.checkOut)) = some (false, true, none) := by decide
/-- 10_state.md R39: a value that `P_RTO_WIDTH` bits cannot hold leaves one that they can; the write itself completes. -/
theorem test_rto_too_wide : onNext (step { ready with events := [.writeRto 65536] }) (fun s => decide (s.cfgRto < 65536)) =
    some true := congrArg some (decide_eq_true (Nat.mod_lt _ (by decide)))
/-- 70_reset_and_hazards.md R356: the channel's own bytes come before the codec's step, which drops one of them. -/
theorem test_supply_before_the_scan : onNext (step { receiving .scan 0 [] [] with supply := .cycle [0x41] [[0x42]] })
    (fun s => (s.rx, s.st, s.supply)) = some ([], .scan, .cycle [0x42] [[0x41]]) := by decide
/-- 43_host_ops.md R288: while `BUSY` the host waits and the receive goes on; at `DONE` it makes its reads. -/
theorem test_receive_waits_for_done : onNext (step { receiving .scan 0 [] [0x41] with events := [.awaitDone .readResult] })
    (fun s => (s.rx, s.events)) = some ([], [.awaitDone .readResult]) := by decide
theorem test_receive_reads_at_done : onNext (step { opened with
      phase := .done, resKind := some .request, resPayload := [0x41, 0x42], events := [.awaitDone .readResult] })
    (fun s => s.events) = some [.read .resKind, .read .resDev, .read .resCol, .read .resEca, .read (.resPayload 0),
      .read (.resPayload 1)] := by decide
/-- V-H1, 43_host_ops.md R289: `STATUS` 0x5E reads back `OK` = 1, and 0x1E `OK` = 0. -/
theorem test_begin_result : beginResult 0x5E = true ∧ beginResult 0x1E = false := by decide
/-- 42_decoder.md R230: the scan takes the sentinel. -/
theorem test_wire_sentinel : onNext (exec .wireSentinel (receiving .scan 0 [] []))
    (fun s => (s.st, s.need, s.fbn, fbByte 0 s)) = some (.waitHdr, 5, 1, 0x21) := by decide
/-- 42_decoder.md R235: the waits the kind characters enter. -/
theorem test_wire_kinds : [Instr.wireKindRequest, .wireKindResponse, .wireKindInterrupt, .wireKindCommError].map
      (fun i => onNext (exec i (receiving .waitHdr 5 [0x21] [])) (fun s => (s.st, s.need))) =
    [some (.waitLen, 3), some (.waitLen, 3), some (.waitShort, 8), some (.waitShort, 8)] := by decide
/-- 42_decoder.md R233: the ordinals of the ECA digits. -/
theorem test_wire_ecas : [Instr.wireEcaNone, .wireEcaXor8, .wireEcaChecksum16, .wireEcaLrc16, .wireEcaFletcher16,
      .wireEcaCrc16].map (fun i => onNext (exec i (receiving .waitHdr 5 [0x21] [])) (fun s => (algOrdinal s.hEca).toNat)) =
    [some 0, some 1, some 2, some 3, some 4, some 5] := by decide
/-- V-X2: a read of `CHECK_OUT` after reset. -/
theorem test_unwritten_read_faults : step { ready with events := [.read .checkOut] } = .fault (.unwrittenRead .checkOut) :=
  rfl
/-- From reset, with nothing placed, a step waits for the host; a placed word runs. -/
theorem test_reset_waits : step State.reset = .next State.reset := rfl
theorem test_reset_runs_placed_word : onNext (step (State.reset.withFetchWord 8 0x05)) (fun s => s.st) = some .scan := by
  decide
theorem test_reset_memory_wf : Memory.wf State.reset.fb = true := by decide

/-! ## Witnesses: states that meet the invariant -/

/-- A receive whose wait has slept its whole budget, with no byte waiting: the next poll expires it. -/
def stalled (w : DecState) (need : Nat) (read : List Byte) (kind : Byte) (len : BitVec 12) : State :=
  { receiving w need read [] with hKind := kind, hLen := len, ticks := 4 }

theorem stalled_inv {w : DecState} {need : Nat} {read : List Byte} {kind : Byte} {len : BitVec 12}
    (hr : read.length ≤ Config.frameMax) (hw : ReceiveInv (stalled w need read kind len)) :
    (stalled w need read kind len).Inv where
  command := ⟨rfl, rfl, rfl⟩
  config := ⟨show params.wf = true by decide, show 3 < 2 ^ 16 by decide⟩
  buffer := ⟨Memory.wf_writeBytes rfl, Memory.mem_writeBytes (by simp) (by simpa using hr), hr⟩
  receive := hw
  results := ⟨fun _ => rfl, rfl, rfl, rfl, rfl, rfl, rfl⟩

theorem scan_inv : (stalled .scan 0 [] 0 0).Inv :=
  stalled_inv (by decide) (show _ ∧ _ ∧ _ from ⟨rfl, rfl, by decide⟩)
theorem header_inv : (stalled .waitHdr 5 [0x21] 0 0).Inv :=
  stalled_inv (by decide) (show _ ∧ _ ∧ _ ∧ _ from ⟨rfl, rfl, rfl, by decide⟩)
theorem length_inv : (stalled .waitLen 3 [0x21, 0x3F, 0x31, 0x30, 0x30, 0x30] 0x3F 0).Inv :=
  stalled_inv (by decide) (show _ ∧ _ ∧ _ ∧ _ ∧ _ from ⟨rfl, rfl, rfl, by decide, .inl rfl⟩)
theorem body_inv : (stalled .waitBody 4101 [0x21, 0x23, 0x31, 0x30, 0x30, 0x30, 0x46, 0x46, 0x46] 0x23 0xFFF).Inv :=
  stalled_inv (by decide) (show _ ∧ _ ∧ _ ∧ _ ∧ _ from ⟨rfl, rfl, rfl, by decide, .inr rfl⟩)
theorem short_inv : (stalled .waitShort 8 [0x21, 0x7E, 0x31, 0x30, 0x30, 0x30] 0x7E 0).Inv :=
  stalled_inv (by decide) (show _ ∧ _ ∧ _ ∧ _ ∧ _ from ⟨rfl, rfl, rfl, by decide, .inr rfl⟩)

/-- A block that is done with a receive, and whose next input is a register read. -/
def finished (k : Option ResKind) (dev col : Option (BitVec 12)) (payload : List Byte) (present : Option Bool)
    (a : Option Alg) (c : Option Cause) (r : HostReg) : State :=
  { ready with
    phase := .done, checkOut := some 7, resKind := k, resDev := dev, resCol := col, resPayload := payload,
    resPayloadPresent := present, resEca := a, diagCause := c, events := [.read r] }

theorem finished_inv {k : Option ResKind} {dev col : Option (BitVec 12)} {payload : List Byte} {present : Option Bool}
    {a : Option Alg} {c : Option Cause} {r : HostReg} (h : ResultInv (finished k dev col payload present a c r)) :
    (finished k dev col payload present a c r).Inv where
  command := trivial
  config := ⟨show params.wf = true by decide, show 3 < 2 ^ 16 by decide⟩
  buffer := ⟨rfl, by simp [finished, ready, State.reset], Nat.zero_le _⟩
  receive := show ¬Executing _ _ from nofun
  results := h

def neverReceived (r : HostReg) : State := finished none none none [] none none none r
def timedOut (r : HostReg) : State := finished (some .timeout) none none [] none none (some .noData) r
def gotRequest (r : HostReg) : State :=
  finished (some .request) (some 1) (some 1) [0x41] (some true) (some .none) (some .accepted) r
def gotInterrupt (r : HostReg) : State :=
  finished (some .interrupt) (some 1) (some 255) [] (some false) (some .none) (some .accepted) r

theorem neverReceived_inv (r : HostReg) : (neverReceived r).Inv :=
  finished_inv ⟨nofun, rfl, rfl, rfl, rfl, rfl, rfl⟩
theorem timedOut_inv (r : HostReg) : (timedOut r).Inv :=
  finished_inv ⟨nofun, ⟨rfl, rfl, rfl, rfl, rfl, rfl⟩, fun _ => ⟨_, rfl, nofun⟩⟩
theorem gotRequest_inv (r : HostReg) : (gotRequest r).Inv :=
  finished_inv ⟨nofun, rfl, rfl, show 1 ≤ 4095 by decide, rfl, rfl, fun _ => rfl⟩
theorem gotInterrupt_inv (r : HostReg) : (gotInterrupt r).Inv :=
  finished_inv ⟨nofun, rfl, ⟨255, rfl⟩, rfl, rfl, rfl, fun _ => rfl⟩

/-! ## Witnesses: one for each statement with hypotheses, at the boundaries of its clauses -/

theorem witness_DecodeOfEncodeIsTheInstruction :
    (Instr.encReq .crc16 0xFFFFFFFF 0 [0x41]).wf = true ∧ (Instr.chkCompute .none [0x41] 1).wf = true ∧
    (Instr.reservedOp9 0).wf = true ∧ (Instr.reservedOp9 5).wf = true ∧
    (Instr.reservedChanOpenAlg 1).wf = true ∧ (Instr.reservedChanOpenAlg 5).wf = true := by decide
theorem witness_PresentedCommand_accepted :
    let s : State := { opened with events := [.command 0x56 { Ports.zero with dbuf := [0x41], nIn := 1 }] }
    s.events = [.command 0x56 { Ports.zero with dbuf := [0x41], nIn := 1 }] ∧ Ready s ∧ (0x56 : Byte).toNat < 128 ∧
    (0x56 : Byte).toNat % 16 = 6 ∧ (0x56 : Byte).toNat / 16 % 8 = 5 := ⟨rfl, rfl, by decide, by decide, by decide⟩
theorem witness_PresentedCommand_refused :
    let s : State := { busy .decRecv opened with events := [.command 0x01 Ports.zero] }
    s.events = [.command 0x01 Ports.zero] ∧ ¬Ready s ∧ ¬((0x61 : Byte).toNat / 16 % 8 ≤ 5) ∧ ¬((0x80 : Byte).toNat < 128) :=
  ⟨rfl, nofun, by decide, by decide⟩
theorem witness_EcaDigitsAreExactlyZeroToFive :
    (0x30 ≤ (0x30 : Byte).toNat ∧ (0x35 : Byte).toNat ≤ 0x35) ∧ ¬(0x30 ≤ (0x2F : Byte).toNat) ∧
    ¬((0x36 : Byte).toNat ≤ 0x35) := by decide
theorem witness_HexFieldsParseBack : 0xFFFF < 16 ^ 4 ∧ 0 < 16 ^ 0 := by decide
theorem witness_ParseHexReadsMostSignificantDigitFirst :
    parseHex true [0x66] = some 15 ∧ hexValue true 0x61 = some 10 ∧ hexValue false 0x46 = some 15 ∧
    hexValue false 0x30 = some 0 := by decide
theorem witness_FittedValuesFitTheirFields : 4095 < 4096 ∧ 255 < 256 ∧ 4096 ≤ 4096 ∧ 256 ≤ 256 := by decide
theorem witness_SingleByteChangesAreDetected :
    (0x00 : Byte) ≠ 0xFF ∧ (0x41 : Byte) ≠ 0x42 ∧ params.fletcher16Signed = false := by decide
theorem witness_CheckValuesStayInTheirRanges :
    ([0x80] : List Byte).length ≤ 4110 ∧ params.fletcher16Signed = false ∧ Alg.crc16 ≠ .checksum16 := by decide
theorem witness_CheckAlgorithmsComputeTheSpecsValues :
    params.lrc16Signed = false ∧ ({ params with lrc16Signed := true } : Params).lrc16Signed = true ∧ 7 < 8 ∧
    params.fletcher16Signed = false ∧ (∀ c ∈ ([0x7F] : List Byte), c.toNat < 0x80) ∧ params.crc16FinalSwap = false := by
  decide
theorem witness_CheckIsAcceptedExactlyOnItsField :
    (Alg.crc16 ≠ .none ∧ ¬(Alg.crc16 = .checksum16 ∧ params.cs16Compare = .full)) ∧
    ¬(Alg.checksum16 = .checksum16 ∧ params.cs16Compare = .full) ∧
    ({ params with cs16Compare := .full } : Params).cs16Compare = .full ∧
    (compute params .checksum16 [0xFF]).toInt < 0 := by decide
theorem witness_OneCommandAtATime_accept :
    Instr.chanOpenCmd.isCommand = true ∧ Instr.chanOpenCmd.wf = true ∧ Ready ready ∧ Instr.chanOpenCmd ≠ .decRecv :=
  ⟨rfl, rfl, rfl, nofun⟩
theorem witness_OneCommandAtATime_refuse :
    let s : State := { busy .decRecv opened with events := [.command 0x05 Ports.zero] }
    let t : State := { busy .decRecv opened with events := [.writeRto 1] }
    s.events = [.command 0x05 Ports.zero] ∧ ¬Ready s ∧ t.events = [.writeRto 1] ∧ ¬Ready t := ⟨rfl, nofun, rfl, nofun⟩
theorem witness_LongEncodersWriteTheirFrame :
    ([0x41] : List Byte).length ≤ 4096 ∧ (busy (.encReq .none 0 1 [0x41]) opened).chanOpen = true ∧
    Executing (.encReq .none 0 1 [0x41]) (busy (.encReq .none 0 1 [0x41]) opened) ∧
    Executing (.encRsp .none 0 1 [0x41]) (busy (.encRsp .none 0 1 [0x41]) opened) := ⟨by decide, rfl, rfl, rfl⟩
theorem witness_ShortEncodersWriteTheirFrame :
    (busy (.encSip .none 0 1) opened).chanOpen = true ∧ Executing (.encSip .none 0 1) (busy (.encSip .none 0 1) opened) ∧
    Executing (.encCep .none 0 1) (busy (.encCep .none 0 1) opened) := ⟨rfl, rfl, rfl⟩
theorem witness_EncodersFailExactlyOnAClosedChannel :
    let i := Instr.encSip .none 0 1
    i.wf = true ∧ Executing i (busy i ready) ∧ (busy i ready).chanOpen = false ∧ CommandInv (busy i ready) ∧
    (∃ t, exec i (busy i ready) = .next t) ∧ ∃ t, exec i (busy i opened) = .next t :=
  ⟨rfl, rfl, rfl, ⟨rfl, rfl, rfl⟩, ⟨_, rfl⟩, ⟨_, rfl⟩⟩
theorem witness_OversizedPortsAreRefused :
    4096 < (List.replicate 4097 (0 : Byte)).length ∧ 4110 < (List.replicate 4111 (0 : Byte)).length ∧
    ([0x41] : List Byte).length ≤ 4110 ∧ ([0x41] : List Byte).length < 2 := by
  rw [List.length_replicate, List.length_replicate]; decide
theorem witness_OversizedPortsAreRefused_states :
    ¬Executing (.chkCompute .none [0x41] 2) ready ∧ ¬Executing (.chkCompute .none [0x41] 2) (busy .decRecv ready) :=
  ⟨nofun, nofun⟩
theorem witness_EncodersReadAndWriteNothingElse :
    let i := Instr.encCep .none 0 1
    let s := busy i { opened with tx := [0x41] }
    Executing i s ∧ Executing i (busy i opened) ∧ (∃ t, exec i s = .next t) ∧ (∃ t, exec i (busy i opened) = .next t) ∧
    s.cfg = (busy i opened).cfg ∧ s.chanOpen = (busy i opened).chanOpen := ⟨rfl, rfl, ⟨_, rfl⟩, ⟨_, rfl⟩, rfl, rfl⟩
theorem witness_ChkComputeWritesTheCheckValue :
    ([0x41] : List Byte).length ≤ 4110 ∧ 1 ≤ ([0x41] : List Byte).length ∧
    Executing (.chkCompute .crc16 [0x41] 1) (busy (.chkCompute .crc16 [0x41] 1) ready) := ⟨by decide, by decide, rfl⟩
theorem witness_ChannelCommands :
    Executing .chanOpenCmd (busy .chanOpenCmd ready) ∧ (busy .chanOpenCmd ready).chanOpen = false ∧
    Executing .chanOpenCmd (busy .chanOpenCmd opened) ∧ (busy .chanOpenCmd opened).chanOpen = true ∧
    Executing .chanCloseCmd (busy .chanCloseCmd ready) ∧ Executing .chanCloseCmd (busy .chanCloseCmd opened) :=
  ⟨rfl, rfl, rfl, rfl, rfl, rfl⟩
theorem witness_ChanReadRemovesWhatItReturns :
    1 ≤ 1 ∧ opened.cfg.chanReadFull = true ∧
    ({ opened with cfg := { params with chanReadFull := false } } : State).cfg.chanReadFull = false :=
  ⟨by decide, rfl, rfl⟩
theorem witness_ScanStepFindsTheSentinel :
    let s := fun rx : List Byte => receiving .scan 0 [] rx
    (∀ rx, Executing .decRecv (s rx) ∧ (s rx).st = .scan) ∧ (chanRead 1 (s [])).1 = [] ∧
    (chanRead 1 (s [0x21])).1 = 0x21 :: [] ∧ (chanRead 1 (s [0x20])).1 = 0x20 :: [] ∧ (0x20 : Byte) ≠ 0x21 :=
  ⟨fun _ => ⟨rfl, rfl⟩, rfl, rfl, rfl, by decide⟩
theorem witness_PollTestsBytesThenBudgetThenSleeps :
    let s := receiving .waitHdr 5 [0x21] [0x3F, 0x30, 0x30, 0x30, 0x30]
    let short : State := { s with cfg := { params with chanReadFull := false }, tape := [3] }
    Executing .decRecv s ∧ s.st = .waitHdr ∧ s.fbn + s.need ≤ 4110 ∧ s.need ≤ chanAvail s ∧
    s.need ≤ (chanRead s.need s).1.length ∧ (chanRead short.need short).1.length < short.need ∧
    (chanAvail (stalled .waitHdr 5 [0x21] 0 0) < 5 ∧
      (stalled .waitHdr 5 [0x21] 0 0).cfgRto < (stalled .waitHdr 5 [0x21] 0 0).ticks) ∧
    chanAvail (receiving .waitHdr 5 [0x21] []) < 5 :=
  ⟨rfl, rfl, by decide, by decide, by decide, by decide, by decide, by decide⟩
theorem witness_HeaderIsCheckedInOrder :
    let s := receiving .waitHdr 5 [0x21] [0x3F, 0x35, 0x31, 0x32, 0x33]
    Executing .decRecv s ∧ s.st = .waitHdr ∧ s.fbn = 1 ∧ s.need = 5 ∧ Memory.wf s.fb = true ∧ s.chanOpen = true ∧
    s.cfg.chanReadFull = true ∧ s.rx = 0x3F :: 0x35 :: 0x31 :: 0x32 :: 0x33 :: [] ∧ (0x35 : Byte) = ecaChar .crc16 ∧
    parseHex true [0x31, 0x32, 0x33] = some 0x123 ∧ parseHex true [0x31, 0x32, 0x47] = none ∧
    LongChar 0x3F ∧ ShortChar 0x7E ∧ ¬(LongChar 0x2A ∨ ShortChar 0x2A) ∧
    ¬(0x30 ≤ (0x36 : Byte).toNat ∧ (0x36 : Byte).toNat ≤ 0x35) :=
  ⟨rfl, rfl, rfl, rfl, rfl, rfl, rfl, rfl, rfl, by decide, by decide, .inl rfl, .inr rfl,
    by simp [LongChar, ShortChar], by decide⟩
theorem witness_DecoderRunsTheWireBytes :
    let s := receiving .waitHdr 5 [0x21] [0x21, 0x30, 0x46, 0x46, 0x46]
    Executing .decRecv s ∧ s.st = .waitHdr ∧ s.fbn = 1 ∧ s.need = 5 ∧ Memory.wf s.fb = true ∧
    s.rx = kindChar .interrupt :: ecaChar .none :: 0x46 :: 0x46 :: 0x46 :: [] ∧
    parseHex s.cfg.hexLowerOk [0x46, 0x46, 0x46] = some 0xFFF := ⟨rfl, rfl, rfl, rfl, rfl, rfl, by decide⟩
theorem witness_LengthFieldSetsTheBodyWait :
    let s := receiving .waitLen 3 [0x21, 0x3F, 0x31, 0x30, 0x30, 0x30] [0x46, 0x46, 0x46]
    Executing .decRecv s ∧ s.st = .waitLen ∧ s.fbn = 6 ∧ s.need = 3 ∧ Memory.wf s.fb = true ∧ s.chanOpen = true ∧
    s.cfg.chanReadFull = true ∧ s.rx = 0x46 :: 0x46 :: 0x46 :: [] ∧
    parseHex s.cfg.hexLowerOk [0x46, 0x46, 0x46] = some 4095 ∧ parseHex s.cfg.hexLowerOk [0x20, 0x30, 0x32] = none :=
  ⟨rfl, rfl, rfl, rfl, rfl, rfl, rfl, rfl, by decide, by decide⟩
/-- V-D1 and its corruptions: each clause of the body step of a Request. -/
theorem witness_LongBodyIsValidatedThenAccepted :
    let s : State := { receiving .waitBody 8 [0x21, 0x3F, 0x35, 0x31, 0x32, 0x33, 0x30, 0x30, 0x32]
      [0x41, 0x42, 0x33, 0x34, 0x37, 0x38, 0x0D, 0x0A] with hKind := 0x3F, hEca := .crc16, hDev := 0x123, hLen := 2 }
    let cov := fbBytes 0 9 s ++ [0x41, 0x42]
    Executing .decRecv s ∧ s.st = .waitBody ∧ s.fbn = 9 ∧ s.need = s.hLen.toNat + 6 ∧ Memory.wf s.fb = true ∧
    s.rx = [0x41, 0x42] ++ [0x33, 0x34, 0x37, 0x38] ++ 0x0D :: 0x0A :: [] ∧
    parseHex s.cfg.hexLowerOk [0x33, 0x34, 0x37, 0x38] = some (0x3478 : BitVec 16).toNat ∧
    parseHex s.cfg.hexLowerOk [0x5A, 0x5A, 0x5A, 0x5A] = none ∧ checkOk s.cfg s.hEca cov 0x3478 = true ∧
    checkOk s.cfg s.hEca cov 0 = false ∧ termOk s.cfg.termRule 0x0D 0x0A = true ∧ termOk s.cfg.termRule 0x58 0x59 = false :=
  ⟨rfl, rfl, rfl, rfl, rfl, rfl, by decide, by decide, by decide +kernel, by decide +kernel, by decide, by decide⟩
/-- V-D21 and its corruptions: each clause of the body step of an Interrupt. -/
theorem witness_ShortBodyIsValidatedThenAccepted :
    let s : State := { receiving .waitShort 8 [0x21, 0x21, 0x31, 0x31, 0x32, 0x33]
      [0x46, 0x46, 0x30, 0x30, 0x30, 0x31, 0x58, 0x59] with hKind := 0x21, hEca := .xor8, hDev := 0x123 }
    let cov := fbBytes 0 6 s ++ [0x46, 0x46]
    Executing .decRecv s ∧ s.st = .waitShort ∧ s.fbn = 6 ∧ s.need = 8 ∧ Memory.wf s.fb = true ∧
    s.rx = [0x46, 0x46] ++ [0x30, 0x30, 0x30, 0x31] ++ 0x58 :: 0x59 :: [] ∧
    parseHex s.cfg.hexLowerOk [0x46, 0x46] = some (0xFF : Byte).toNat ∧ parseHex s.cfg.hexLowerOk [0x47, 0x30] = none ∧
    parseHex s.cfg.hexLowerOk [0x30, 0x30, 0x30, 0x31] = some (1 : BitVec 16).toNat ∧
    checkOk s.cfg s.hEca cov 1 = true ∧ checkOk s.cfg s.hEca cov 2 = false ∧ s.cfg.sipcepTermCheck = false ∧
    ({ params with sipcepTermCheck := true } : Params).sipcepTermCheck = true ∧ termOk .crOrLf 0x58 0x59 = false :=
  ⟨rfl, rfl, rfl, rfl, rfl, rfl, by decide, by decide, by decide, by decide +kernel, by decide +kernel, rfl, rfl, by decide⟩
theorem witness_ReceiveEndsInAFrameOrInTimeout :
    Executing .decRecv (receiving .scan 0 [] []) ∧ ∃ t, exec .decRecv (receiving .scan 0 [] []) = .next t := ⟨rfl, _, rfl⟩
/-- The wait of the longest body, and the short wait, expire. -/
theorem body_expires :
    let s := stalled .waitBody 4101 [0x21, 0x23, 0x31, 0x30, 0x30, 0x30, 0x46, 0x46, 0x46] 0x23 0xFFF
    exec .decRecv s = .next (reject .waitExpired s) := by
  intro s
  rw [exec_decRecv_executing rfl]
  exact pollStep_expire (process := processBody) (by decide) (by decide)
theorem short_expires :
    let s := stalled .waitShort 8 [0x21, 0x7E, 0x31, 0x30, 0x30, 0x30] 0x7E 0
    exec .decRecv s = .next (reject .waitExpired s) := by
  intro s
  rw [exec_decRecv_executing rfl]
  exact pollStep_expire (process := processShort) (by decide) (by decide)
/-- A receive that ends in each of its five states. -/
theorem witness_BytesConsumedAtEachExit :
    ∀ s ∈ [stalled .scan 0 [] 0 0, stalled .waitHdr 5 [0x21] 0 0,
      stalled .waitLen 3 [0x21, 0x3F, 0x31, 0x30, 0x30, 0x30] 0x3F 0,
      stalled .waitBody 4101 [0x21, 0x23, 0x31, 0x30, 0x30, 0x30, 0x46, 0x46, 0x46] 0x23 0xFFF,
      stalled .waitShort 8 [0x21, 0x7E, 0x31, 0x30, 0x30, 0x30] 0x7E 0],
    s.Inv ∧ s.cfg.hasDiagCause = true ∧ Executing .decRecv s ∧
      ∃ t, exec .decRecv s = .next t ∧ t.phase = .done := by
  refine List.forall_mem_cons.mpr ⟨⟨scan_inv, rfl, rfl, reject .noData _, rfl, rfl⟩, ?_⟩
  refine List.forall_mem_cons.mpr ⟨⟨header_inv, rfl, rfl, reject .waitExpired _, rfl, rfl⟩, ?_⟩
  refine List.forall_mem_cons.mpr ⟨⟨length_inv, rfl, rfl, reject .waitExpired _, rfl, rfl⟩, ?_⟩
  refine List.forall_mem_cons.mpr ⟨⟨body_inv, rfl, rfl, _, body_expires, rfl⟩, ?_⟩
  exact List.forall_mem_cons.mpr ⟨⟨short_inv, rfl, rfl, _, short_expires, rfl⟩, fun _ h => absurd h List.not_mem_nil⟩
theorem witness_WireBytes :
    (receiving .scan 0 [] []).st = .scan ∧ Memory.wf (receiving .scan 0 [] []).fb = true ∧
    (receiving .waitHdr 5 [0x21] []).st = .waitHdr ∧ ready.st ≠ .scan ∧ ready.st ≠ .waitHdr := by decide
theorem witness_StepRunsTheDecodedInstruction :
    let s : State := { opened with events := [.command 0x08 Ports.zero] }
    let t : State := { busy .chanCloseCmd opened with events := [.codec] }
    Ready s ∧ s.events = [.command 0x08 Ports.zero] ∧ decode .command 0x08 Ports.zero = .ok .chanCloseCmd ∧
    Executing .chanCloseCmd t ∧ t.events = [.codec] ∧ (busy .chanCloseCmd opened).events = [] ∧
    ({ t with events := [.awaitDone .nothing] } : State).events = [.awaitDone .nothing] ∧ t.supply = .quiet ∧
    decodeTableWord 8 0x08 = some .chanCloseCmd := ⟨rfl, rfl, rfl, rfl, rfl, rfl, rfl, rfl, rfl⟩
theorem witness_StepKeepsTheInvariant :
    (stalled .waitHdr 5 [0x21] 0 0).Inv ∧ ∃ t, step (stalled .waitHdr 5 [0x21] 0 0) = .next t := ⟨header_inv, _, rfl⟩
theorem witness_StepKeepsTheFrameBufferCanonical :
    Memory.wf (receiving .scan 0 [] [0x21]).fb = true ∧ ∃ t, step (receiving .scan 0 [] [0x21]) = .next t := ⟨rfl, _, rfl⟩
theorem witness_OnlyUnwrittenReadsFault :
    (neverReceived .resKind).Inv ∧ step (neverReceived .resKind) = .fault (.unwrittenRead .resKind) :=
  ⟨neverReceived_inv _, rfl⟩
theorem witness_ReceiveStreamLosesOnlyItsHead :
    (∃ t, step (receiving .scan 0 [] [0x41]) = .next t ∧ t.rx ≠ (receiving .scan 0 [] [0x41]).rx) ∧
    (∃ t, step { opened with events := [.arrive [0x41]] } = .next t ∧ t.rx = [0x41]) ∧
    ∃ t, step { opened with supply := .cycle [0x41] [] } = .next t ∧ t.rx = [0x41] :=
  ⟨⟨_, rfl, by decide⟩, ⟨_, rfl, rfl⟩, ⟨_, rfl, rfl⟩⟩
theorem witness_TransmitStreamIsAppendOnly :
    ∃ t, step (busy (.encSip .none 0 1) opened) = .next t ∧ ∃ b bs, t.tx = [] ++ b :: bs := ⟨_, rfl, _, _, rfl⟩
theorem witness_RegistersChangeOnlyByTheirWriters :
    (∃ t, step { ready with events := [.writeRto 5] } = .next t ∧ t.cfgRto ≠ ready.cfgRto) ∧
    (∃ t, step (busy .chanCloseCmd opened) = .next t ∧ t.chanOpen ≠ opened.chanOpen) ∧
    (∃ t, step (busy (.chkCompute .none [] 0) ready) = .next t ∧ t.checkOut ≠ ready.checkOut) ∧
    CommandInv ready ∧ ∃ t, step (ready.withFetchWord 8 0x80) = .next t ∧ t.refusalMark ≠ ready.refusalMark :=
  ⟨⟨_, rfl, by decide⟩, ⟨_, rfl, by decide⟩, ⟨_, rfl, by decide⟩, trivial, ⟨_, rfl, by decide⟩⟩
theorem witness_ReceiveTerminates :
    let s := stalled .waitBody 4101 [0x21, 0x23, 0x31, 0x30, 0x30, 0x30, 0x46, 0x46, 0x46] 0x23 0xFFF
    s.Inv ∧ Executing .decRecv s ∧ s.supply = .quiet ∧ s.events = [] := ⟨body_inv, rfl, rfl, rfl⟩
theorem witness_ReceiveTerminates_waiting :
    let s : State := { stalled .scan 0 [] 0 0 with events := [.awaitDone .readResult] }
    s.Inv ∧ Executing .decRecv s ∧ s.supply = .quiet ∧ s.events = [.awaitDone .readResult] :=
  ⟨⟨scan_inv.command, scan_inv.config, scan_inv.buffer, scan_inv.receive, scan_inv.results⟩, rfl, rfl, rfl⟩
theorem witness_EndlessGarbageNeverEndsAReceive :
    let s : State := { receiving .scan 0 [] [0x78] with supply := .cycle [0x41] [[0x0D, 0x0A]] }
    Executing .decRecv s ∧ s.st = .scan ∧ s.events = [] ∧ s.chanOpen = true ∧ s.cfg.chanReadFull = true ∧
    (0x21 : Byte) ∉ s.rx ∧ s.supply = .cycle [0x41] [[0x0D, 0x0A]] ∧
    ∀ c ∈ ([[0x41], [0x0D, 0x0A]] : List (List Byte)), c ≠ [] ∧ (0x21 : Byte) ∉ c :=
  ⟨rfl, rfl, rfl, rfl, rfl, by decide, rfl, by decide⟩
theorem witness_StalledWaitExpiresAfterItsBudget :
    ∀ w ∈ [DecState.waitHdr, .waitLen, .waitBody, .waitShort],
      let s := receiving w 3 [0x21] [0x41, 0x42]
      Executing .decRecv s ∧ s.st = w ∧ s.events = [] ∧ s.supply = .quiet ∧ s.ticks = 0 ∧ chanAvail s < s.need :=
  fun _ _ => ⟨rfl, rfl, rfl, rfl, rfl, show 2 < 3 by decide⟩
theorem witness_DecodingAnEncodedFrameGivesItBack :
    ∀ i ∈ [Instr.encReq .crc16 0x123 2 [0x41, 0x42], .encRsp .none 0 0 [], .encSip .xor8 0xFFF 255, .encCep .lrc16 0 0],
      ∃ (t : State) (frame : List Byte), exec i (busy i opened) = .next t ∧ t.tx = (busy i opened).tx ++ frame ∧
        let r : State := { opened with rx := frame, events := [.command 0x05 Ports.zero] }
        (busy i opened).chanOpen = true ∧ (busy i opened).cfg.cs16Compare = .masked16 ∧
        (busy i opened).cfg.chanReadFull = true ∧ r.cfg = (busy i opened).cfg ∧ Ready r ∧ r.chanOpen = true ∧
        Memory.wf r.fb = true ∧ r.rx = frame ∧ r.events = [.command 0x05 Ports.zero] ∧ r.supply = .quiet := by
  refine List.forall_mem_cons.mpr ⟨⟨_, _, rfl, rfl, rfl, rfl, rfl, rfl, rfl, rfl, rfl, rfl, rfl, rfl⟩, ?_⟩
  refine List.forall_mem_cons.mpr ⟨⟨_, _, rfl, rfl, rfl, rfl, rfl, rfl, rfl, rfl, rfl, rfl, rfl, rfl⟩, ?_⟩
  refine List.forall_mem_cons.mpr ⟨⟨_, _, rfl, rfl, rfl, rfl, rfl, rfl, rfl, rfl, rfl, rfl, rfl, rfl⟩, ?_⟩
  exact List.forall_mem_cons.mpr ⟨⟨_, _, rfl, rfl, rfl, rfl, rfl, rfl, rfl, rfl, rfl, rfl, rfl, rfl⟩, nofun⟩
theorem witness_UnwrittenReadsFault :
    ({ ready with events := [.read .checkOut] } : State).checkOut = none ∧
    ((neverReceived .resKind).Inv ∧ (neverReceived .resKind).resKind = none ∧ (neverReceived .resKind).diagCause = none) ∧
    ((timedOut .resDev).Inv ∧ (timedOut .resDev).resKind = some .timeout) ∧
    ((gotRequest (.resPayload 1)).Inv ∧ ∀ n, (gotRequest (.resPayload 1)).resCol = some n → n.toNat ≤ 1) ∧
    ((gotInterrupt (.resPayload 0)).Inv ∧ (gotInterrupt (.resPayload 0)).resKind = some .interrupt) :=
  ⟨rfl, ⟨neverReceived_inv _, rfl, rfl⟩, ⟨timedOut_inv _, rfl⟩,
    ⟨gotRequest_inv _, fun n h => by cases h; decide⟩, ⟨gotInterrupt_inv _, rfl⟩⟩
theorem witness_HostReadsReturnTheRegister :
    ∀ r, (gotRequest r).events = [.read r] ∧ (gotRequest r).checkOut = some 7 ∧ (gotRequest r).cfg.hasDiagCause = true ∧
      (gotRequest r).diagCause = some .accepted ∧ (gotRequest r).resKind = some .request ∧
      (gotRequest r).resDev = some 1 ∧ (gotRequest r).resCol = some 1 ∧ (gotRequest r).resPayload[0]? = some 0x41 ∧
      (gotRequest r).resPayloadPresent = some true ∧ (gotRequest r).resEca = some .none :=
  fun _ => ⟨rfl, rfl, rfl, rfl, rfl, rfl, rfl, rfl, rfl, rfl⟩
theorem witness_CfgRtoIsWritableOnlyWhenNotBusy :
    let s := fun v : Nat => ({ ready with events := [.writeRto v] } : State)
    Ready (s 65535) ∧ 65535 < 2 ^ (s 65535).cfg.rtoWidth ∧ 2 ^ (s 65536).cfg.rtoWidth ≤ 65536 ∧
    ¬Ready { busy .decRecv ready with events := [.writeRto 1] } := ⟨rfl, by decide, by decide, nofun⟩
theorem witness_InputsOfAnyState :
    ({ ready with events := [.arrive [0x41]] } : State).events = [.arrive [0x41]] ∧
    ({ ready with events := [.supply .free] } : State).events = [.supply .free] ∧
    ({ ready with supply := .cycle [0x41] [[]] } : State).supply = .cycle [0x41] ([] :: []) ∧
    ({ ready with supply := .free } : State).supply = .free ∧
    ({ busy .decRecv opened with events := [.reset] } : State).events = [.reset] ∧ Ready ready ∧ ready.events = [] :=
  ⟨rfl, rfl, rfl, rfl, rfl, rfl, rfl⟩
theorem witness_AdapterCallsRunTheirCommand :
    let s : State := { ready with phase := .done, op := 7, ok := true, events := [.awaitDone .readStatus] }
    Ready ready ∧ s.phase = .done ∧ s.events = [.awaitDone .readStatus] := ⟨rfl, rfl, rfl⟩
theorem witness_ReceiveCallReadsItsResult :
    (ResultInv (gotRequest .status) ∧ (gotRequest .status).resKind ≠ none ∧
      (gotRequest .status).resKind ≠ some .timeout ∧ 0 < (gotRequest .status).resPayload.length) ∧
    ResultInv (timedOut .status) ∧ (timedOut .status).resKind = some .timeout :=
  ⟨⟨(gotRequest_inv _).results, nofun, nofun, by decide⟩, (timedOut_inv _).results, rfl⟩
/-- The whole call: a block that has never received presents `receive()`. -/
theorem witness_ReceiveCallReadsItsResult_call :
    let s : State := { neverReceived .status with events := [.command 0x05 Ports.zero, .awaitDone .readResult] }
    s.Inv ∧ Ready s ∧ s.supply = .quiet ∧ s.events = callEvents s .receive :=
  let h := neverReceived_inv .status
  ⟨⟨h.command, h.config, h.buffer, h.receive, h.results⟩, rfl, rfl, rfl⟩

end Sys2Proof.Tests
end

section
/-! SUPPORT. The host's single actions, in a block that is `BUSY` and in one that is not, and the packing
of bit fields. -/

namespace Sys2Proof.Machine

variable {s : State} {es : List Event}

/-- A concatenation of bit fields as a number. -/
theorem toNat_append_eq_add {m n : Nat} (x : BitVec m) (y : BitVec n) :
    (x ++ y).toNat = x.toNat * 2 ^ n + y.toNat := by
  rw [BitVec.toNat_append, ← Nat.shiftLeft_add_eq_or_of_lt y.isLt, Nat.shiftLeft_eq]

/-- `STATUS` as a number: each field weighs two to the number of bits below it (10_state.md R38). -/
theorem statusWord_toNat (s : State) :
    (statusWord s).toNat = (phaseCode s.phase).toNat + 4 * s.op.toNat + 64 * s.ok.toNat := by
  rw [statusWord, toNat_append_eq_add, toNat_append_eq_add, toNat_append_eq_add, BitVec.toNat_ofBool,
    BitVec.toNat_ofNat]
  omega

/-- A command presented while `BUSY` is refused (10_state.md R43). -/
theorem step_command_busy {w : Byte} {p : Ports} (he : s.events = .command w p :: es) (hb : ¬Ready s) :
    step s = .next { s with events := es, refusalMark := true } := by
  have hb' : isBusy { s with events := es } = true := Bool.eq_true_of_not_eq_false hb
  simp only [step, fetch, he, fetchEvent, fetchCommand, if_pos hb', refuseRequest]

/-- Whatever is written, `CFG_RTO` holds a value of its width. -/
theorem rtoHeld_lt (width v : Nat) : rtoHeld width v < 2 ^ width := by
  unfold rtoHeld
  split
  · assumption
  · exact Nat.mod_lt _ (Nat.two_pow_pos width)

theorem rtoHeld_of_lt {width v : Nat} (h : v < 2 ^ width) : rtoHeld width v = v := if_pos h

/-- A write of `CFG_RTO` that is taken. -/
theorem writeRto_ready {v : Nat} (hr : Ready s) : writeRto v s = { s with cfgRto := rtoHeld s.cfg.rtoWidth v } :=
  if_neg (Bool.eq_false_iff.mp hr)

/-- A write of `CFG_RTO` while `BUSY` is refused. -/
theorem writeRto_busy {v : Nat} (hb : ¬Ready s) : writeRto v s = refuseRequest s :=
  if_pos (Bool.eq_true_of_not_eq_false hb)

theorem step_writeRto {v : Nat} (he : s.events = .writeRto v :: es) :
    step s = .next (writeRto v { s with events := es }) := by
  simp only [step, fetch, he, fetchEvent]

theorem step_writeRto_ready {v : Nat} (he : s.events = .writeRto v :: es) (hr : Ready s) :
    step s = .next { s with events := es, cfgRto := rtoHeld s.cfg.rtoWidth v } :=
  (step_writeRto he).trans (congrArg _ (writeRto_ready (s := { s with events := es }) hr))

theorem step_writeRto_busy {v : Nat} (he : s.events = .writeRto v :: es) (hb : ¬Ready s) :
    step s = .next { s with events := es, refusalMark := true } :=
  (step_writeRto he).trans (congrArg _ (writeRto_busy (s := { s with events := es }) hb))

/-- A host read whose register holds a value. -/
theorem step_read_of_readOut {r : HostReg} {n : Nat} (he : s.events = .read r :: es)
    (h : hostRead r { s with events := es } = readOut r (some n) { s with events := es }) :
    step s = .next { s with events := es, hostReads := s.hostReads ++ [(r, n)] } :=
  (step_read he).trans h

/-- Every word the command decoder reads is written in the command slot. -/
theorem encode_decodeCommand_slot (w : Byte) (p : Ports) : (encode (decodeCommand w p)).slot = .command := by
  simp only [decodeCommand]
  split
  · rfl
  · cases algOfOrdinal (w.extractLsb' 4 3) with
    | none => rfl
    | some a =>
      dsimp only
      split
      case h_6 | h_8 | h_9 => split <;> rfl
      all_goals rfl

end Sys2Proof.Machine

open Sys2Proof Sys2Proof.Machine

/-- Settles O54: each field of `STATUS` weighs two to the number of bits below it. -/
theorem statusPacksStateOpAndOk : Obligations.StatusPacksStateOpAndOk := by
  intro s
  rw [statusWord_toNat]
  cases s.phase <;> cases s.ok <;> rfl

/-- Settles O55, from what a write leaves in `CFG_RTO`. -/
theorem cfgRtoIsWritableOnlyWhenNotBusy : Obligations.CfgRtoIsWritableOnlyWhenNotBusy := by
  intro s v es he
  refine ⟨fun hr hv => ?_, step_writeRto_busy he, fun hr _ => ⟨_, rtoHeld_lt _ v, step_writeRto_ready he hr⟩⟩
  rw [step_writeRto_ready he hr, rtoHeld_of_lt hv]

/-- Settles O58: each value is the one the reset state is defined with. -/
theorem resetValuesAreTheSpecs : Obligations.ResetValuesAreTheSpecs := by
  unfold Obligations.ResetValuesAreTheSpecs
  and_intros <;> rfl

/-- Settles O39: the law of each kind of step, and a table word is the command word of the same number. -/
theorem stepRunsTheDecodedInstruction : Obligations.StepRunsTheDecodedInstruction := by
  refine ⟨fun s w p es i hr he hd => ?_, fun s i => step_executing, fun s i es => step_codec, supplyNext_quiet,
    fun s w i hr hd => ?_⟩
  · obtain rfl : decodeCommand w p = i := Except.ok.inj hd
    exact step_command hr he
  · simp only [decodeTableWord, true_and] at hd
    split at hd
    · rename_i hw
      have hmod : w % 2 ^ 8 = w := Nat.mod_eq_of_lt hw
      obtain rfl := Option.some.inj hd
      rw [State.withFetchWord, hmod]
      exact step_command hr rfl
    · cases hd

/-- Settles O53, register by register; the listed codes are those of `causeCode`, `resKindCode` and `algOrdinal`. -/
theorem hostReadsReturnTheRegister : Obligations.HostReadsReturnTheRegister := by
  intro s r es n he hn
  apply step_read_of_readOut he
  cases r with
  | status => rw [hn]; rfl
  | cfgRto => rw [hn]; rfl
  | chanOpen =>
    have hcode : s.chanOpen.toNat = n := by rw [hn]; cases s.chanOpen <;> rfl
    rw [← hcode]; rfl
  | checkOut => obtain ⟨v, hv, rfl⟩ := hn; simp [hostRead, hv]
  | diagCause =>
    obtain ⟨hd, hn⟩ := hn
    have hcode : s.diagCause.map (fun c => (causeCode c).toNat) = some n := by
      simp only [List.mem_cons, Prod.mk.injEq, List.not_mem_nil, or_false] at hn
      rcases hn with ⟨hc, rfl⟩ | ⟨hc, rfl⟩ | ⟨hc, rfl⟩ | ⟨hc, rfl⟩ | ⟨hc, rfl⟩ | ⟨hc, rfl⟩ | ⟨hc, rfl⟩ | ⟨hc, rfl⟩ |
        ⟨hc, rfl⟩ <;> rw [hc] <;> rfl
    simp [hostRead, hd, hcode]
  | resKind =>
    have hcode : s.resKind.map (fun k => (resKindCode k).toNat) = some n := by
      simp only [List.mem_cons, Prod.mk.injEq, List.not_mem_nil, or_false] at hn
      rcases hn with ⟨hk, rfl⟩ | ⟨hk, rfl⟩ | ⟨hk, rfl⟩ | ⟨hk, rfl⟩ | ⟨hk, rfl⟩ <;> rw [hk] <;> rfl
    simp [hostRead, hcode]
  | resDev => obtain ⟨v, hv, rfl⟩ := hn; simp [hostRead, hv]
  | resCol => obtain ⟨v, hv, rfl⟩ := hn; simp [hostRead, hv]
  | resPayload i => obtain ⟨b, hb, rfl⟩ := hn; simp [hostRead, hb]
  | resPayloadPresent => obtain ⟨b, hb, rfl⟩ := hn; cases b <;> simp [hostRead, hb]
  | resEca =>
    have hcode : s.resEca.map (fun a => (algOrdinal a).toNat) = some n := by
      simp only [List.mem_cons, Prod.mk.injEq, List.not_mem_nil, or_false] at hn
      rcases hn with ⟨ha, rfl⟩ | ⟨ha, rfl⟩ | ⟨ha, rfl⟩ | ⟨ha, rfl⟩ | ⟨ha, rfl⟩ | ⟨ha, rfl⟩ <;> rw [ha] <;> rfl
    simp [hostRead, hcode]
end

section
/-! SUPPORT. What a receive's step changes: the decoder's registers, `FB`, the receive stream and the model's record of
draws; and, where it ends, the result registers and `STATUS`, by `reject` or by `acceptFrame`. -/

namespace Sys2Proof.Machine

variable {s t u v : State}

/-- From `s` to `t` nothing changes but the decoder's registers, `FB`, `RX` and the record of draws. -/
def DecoderOnly (s t : State) : Prop :=
  t = { s with
    st := t.st, fb := t.fb, fbn := t.fbn, need := t.need, ticks := t.ticks, hKind := t.hKind, hEca := t.hEca
    hDev := t.hDev, hLen := t.hLen, hCode := t.hCode, hChk := t.hChk, rx := t.rx, tape := t.tape
    drawCount := t.drawCount }

/-- From `s` to `t` nothing changes but the header registers (10_state.md R36, R37). -/
def HeaderOnly (s t : State) : Prop :=
  t = { s with
    hKind := t.hKind, hEca := t.hEca, hDev := t.hDev, hLen := t.hLen, hCode := t.hCode, hChk := t.hChk }

theorem DecoderOnly.trans (h : DecoderOnly s t) (h' : DecoderOnly t u) : DecoderOnly s u := by
  rw [DecoderOnly] at *
  rw [h', h]

theorem HeaderOnly.decoderOnly (h : HeaderOnly s t) : DecoderOnly s t := by
  rw [HeaderOnly] at h
  rw [DecoderOnly, h]

/-- What `DecoderOnly` leaves as it was. -/
theorem DecoderOnly.kept (h : DecoderOnly s t) :
    t.cfg = s.cfg ∧ t.phase = s.phase ∧ t.cfgRto = s.cfgRto ∧ t.chanOpen = s.chanOpen ∧ t.checkOut = s.checkOut ∧
      t.refusalMark = s.refusalMark := by
  rw [DecoderOnly] at h
  rw [h]
  exact ⟨rfl, rfl, rfl, rfl, rfl, rfl⟩

theorem DecoderOnly.sameResults (h : DecoderOnly s t) : SameResults s t := by
  rw [DecoderOnly] at h
  rw [h]
  exact ⟨rfl, rfl, rfl, rfl, rfl, rfl, rfl⟩

/-- A read changes only `RX` and the record of draws. -/
theorem chanRead_snd (n : Nat) (s : State) :
    ∃ rx tape c, (chanRead n s).2 = { s with rx := rx, tape := tape, drawCount := c } := by
  obtain ⟨k, tape, c, -, -, h⟩ := chanRead_spec n s
  exact ⟨_, tape, c, congrArg Prod.snd h⟩

@[simp] theorem chanRead_fbn (n : Nat) (s : State) : (chanRead n s).2.fbn = s.fbn := by
  obtain ⟨rx, tape, c, h⟩ := chanRead_snd n s
  rw [h]

@[simp] theorem chanRead_hKind (n : Nat) (s : State) : (chanRead n s).2.hKind = s.hKind := by
  obtain ⟨rx, tape, c, h⟩ := chanRead_snd n s
  rw [h]

/-- A read returns no more bytes than it asks for (20_memory.md R62). -/
theorem length_chanRead_le (n : Nat) (s : State) : (chanRead n s).1.length ≤ n := by
  obtain ⟨k, tape, c, hk, -, h⟩ := chanRead_spec n s
  calc (chanRead n s).1.length = (s.rx.take k).length := by rw [h]
    _ ≤ k := List.length_take_le k s.rx
    _ ≤ n := hk.trans (Nat.min_le_left _ _)

theorem decoderOnly_chanRead (n : Nat) (s : State) : DecoderOnly s (chanRead n s).2 := by
  obtain ⟨rx, tape, c, h⟩ := chanRead_snd n s
  rw [h, DecoderOnly]

/-- A poll's read, in `FB`. -/
theorem decoderOnly_polled (n : Nat) (s : State) : DecoderOnly s (fbAppend (chanRead n s).1 (chanRead n s).2) :=
  (decoderOnly_chanRead n s).trans rfl

/-! ## What processing a whole read can do -/

/-- A header is rejected, or its kind is taken (42_decoder.md R233, R235). -/
theorem processHeader_cases (u : State) : ∃ v,
    ((∃ c, c ≠ .accepted ∧ processHeader u = reject c v) ∨ ∃ k, processHeader u = takeKind k v) ∧ HeaderOnly u v := by
  simp only [processHeader]
  split
  · exact ⟨_, .inl ⟨.badEca, nofun, rfl⟩, rfl⟩
  · split
    · exact ⟨_, .inl ⟨.badHex, nofun, rfl⟩, rfl⟩
    · split
      · exact ⟨_, .inl ⟨.badKind, nofun, rfl⟩, rfl⟩
      · exact ⟨_, .inr ⟨_, rfl⟩, rfl⟩

/-- A length field is rejected, or it sets the body wait (42_decoder.md R240). -/
theorem processLength_cases (u : State) : processLength u = reject .badHex u ∨
    ∃ n < 4096, processLength u = enterWait .waitBody (n + 6) { u with hLen := BitVec.ofNat 12 n } := by
  simp only [processLength]
  split
  · exact .inl rfl
  · rename_i n hn
    have hlt := parseHex_lt hn
    rw [fbBytes, Memory.length_readBytes] at hlt
    exact .inr ⟨n, hlt, rfl⟩

theorem headerOnly_latchCheck {a : Nat} (h : latchCheck a u = some v) : HeaderOnly u v := by
  simp only [latchCheck] at h
  split at h
  · split at h
    · cases h
    · cases h; rfl
  · cases h; rfl

/-- The body of a Request or Response is rejected or accepted (42_decoder.md R245, R247). -/
theorem processBody_cases (u : State) : ∃ v,
    ((∃ c, c ≠ .accepted ∧ processBody u = reject c v) ∨
      processBody u = acceptFrame (longKind v.hKind) v.hLen true (fbBytes 9 v.hLen.toNat v) v) ∧
    HeaderOnly u v := by
  simp only [processBody]
  split
  · exact ⟨u, .inl ⟨.badHex, nofun, rfl⟩, rfl⟩
  · rename_i v hv
    refine ⟨v, ?_, headerOnly_latchCheck hv⟩
    simp only [finishLong]
    split
    · split
      · exact .inr rfl
      · exact .inl ⟨.badTerm, nofun, rfl⟩
    · exact .inl ⟨.integrity, nofun, rfl⟩

/-- The body of an Interrupt or CommError is rejected or accepted (42_decoder.md R250, R257). -/
theorem processShort_cases (u : State) : ∃ v,
    ((∃ c, c ≠ .accepted ∧ processShort u = reject c v) ∨
      processShort u = acceptFrame (shortKind v.hKind) (v.hCode.setWidth 12) false [] v) ∧
    HeaderOnly u v := by
  simp only [processShort]
  split
  · exact ⟨u, .inl ⟨.badHex, nofun, rfl⟩, rfl⟩
  · rename_i n _
    split
    · exact ⟨_, .inl ⟨.badHex, nofun, rfl⟩, rfl⟩
    · rename_i v hv
      have hh : HeaderOnly u v := by
        have h := headerOnly_latchCheck hv
        rw [HeaderOnly] at h ⊢
        rw [h]
      refine ⟨v, ?_, hh⟩
      simp only [finishShort]
      split
      · split
        · exact .inr rfl
        · exact .inl ⟨.badTerm, nofun, rfl⟩
      · exact .inl ⟨.integrity, nofun, rfl⟩

/-! ## What a receive's step can do -/

/-- How the step of a receive from `s` can end: it goes on, it is rejected with a cause, or it accepted a frame. -/
inductive ReceiveCase (s t : State) : Prop where
  | goesOn (h : DecoderOnly s t)
  | rejected (c : Cause) (u : State) (hc : c ≠ .accepted) (hu : DecoderOnly s u) (ht : t = reject c u)
  | accepted (k : Kind) (col : BitVec 12) (present : Bool) (payload : List Byte) (u : State) (hu : DecoderOnly s u)
      (ht : t = acceptFrame k col present payload u)

/-- What holds of a step from `u` holds of one from `s` that first reads. -/
theorem ReceiveCase.after (hu : DecoderOnly s u) (h : ReceiveCase u t) : ReceiveCase s t := by
  cases h with
  | goesOn h => exact .goesOn (hu.trans h)
  | rejected c v hc hv ht => exact .rejected c v hc (hu.trans hv) ht
  | accepted k col present payload v hv ht => exact .accepted k col present payload v (hu.trans hv) ht

theorem receiveCase_processHeader (u : State) : ReceiveCase u (processHeader u) := by
  obtain ⟨v, ⟨c, hc, h⟩ | ⟨k, h⟩, hv⟩ := processHeader_cases u
  · exact .rejected c v hc hv.decoderOnly h
  · rw [h]
    exact .goesOn (hv.decoderOnly.trans rfl)

theorem receiveCase_processLength (u : State) : ReceiveCase u (processLength u) := by
  obtain h | ⟨n, -, h⟩ := processLength_cases u
  · exact .rejected .badHex u nofun rfl h
  · rw [h]
    exact .goesOn rfl

theorem receiveCase_processBody (u : State) : ReceiveCase u (processBody u) := by
  obtain ⟨v, ⟨c, hc, h⟩ | h, hv⟩ := processBody_cases u
  · exact .rejected c v hc hv.decoderOnly h
  · exact .accepted _ _ _ _ v hv.decoderOnly h

theorem receiveCase_processShort (u : State) : ReceiveCase u (processShort u) := by
  obtain ⟨v, ⟨c, hc, h⟩ | h, hv⟩ := processShort_cases u
  · exact .rejected c v hc hv.decoderOnly h
  · exact .accepted _ _ _ _ v hv.decoderOnly h

theorem receiveCase_pollStep {process : State → State} (hp : ∀ u, ReceiveCase u (process u))
    (h : pollStep process s = .next t) : ReceiveCase s t := by
  obtain ⟨-, -, ⟨-, rfl⟩ | ⟨-, rfl⟩⟩ | ⟨-, -, rfl⟩ | ⟨-, -, rfl⟩ := pollStep_next h
  · exact .rejected .shortRead _ nofun (decoderOnly_polled _ _) rfl
  · exact (hp _).after (decoderOnly_polled _ _)
  · exact .rejected .waitExpired s nofun rfl rfl
  · exact .goesOn rfl

/-- The scan finds nothing, the sentinel, or another byte (42_decoder.md R230). -/
theorem scanStep_cases (s : State) : scanStep s = reject .noData (chanRead 1 s).2 ∨
    scanStep s = takeSentinel (chanRead 1 s).2 ∨ scanStep s = (chanRead 1 s).2 := by
  simp only [scanStep, scanned]
  split
  · exact .inl rfl
  · split
    · exact .inr (.inl rfl)
    · exact .inr (.inr rfl)

theorem receiveCase_scanStep (s : State) : ReceiveCase s (scanStep s) := by
  have hu := decoderOnly_chanRead 1 s
  obtain h | h | h := scanStep_cases s <;> rw [h]
  · exact .rejected .noData _ nofun hu rfl
  · exact .goesOn (hu.trans rfl)
  · exact .goesOn hu

/-- Everything the step of a receive in progress can answer with a next state. -/
theorem receiveStep_next (h : receiveStep s = .next t) : ReceiveCase s t := by
  unfold receiveStep at h
  split at h
  · cases h
  · cases h
    exact receiveCase_scanStep s
  · exact receiveCase_pollStep receiveCase_processHeader h
  · exact receiveCase_pollStep receiveCase_processLength h
  · exact receiveCase_pollStep receiveCase_processBody h
  · exact receiveCase_pollStep receiveCase_processShort h

end Sys2Proof.Machine
end

section
/-! SUPPORT. What a step can do to the block: an inversion lemma for the accept step, one for the step of a command in
progress, and one for the step of the machine, with a named case for each kind of change. -/

namespace Sys2Proof.Machine

variable {s t u : State} {i : Instr}

/-! ## The accept step -/

theorem not_executing_of_ready (hr : Ready s) : ¬Executing i s := fun hi =>
  Bool.false_ne_true ((Eq.symm hr).trans (isBusy_of_busy hi))

/-- What the command's own rule adds to its accept step: `DEC_RECV` starts its scan (42_decoder.md R220). -/
def startOf : Instr → State → State
  | .decRecv => startReceive
  | _ => id

theorem startOf_of_ne (h : i ≠ .decRecv) : startOf i = id := by
  unfold startOf
  split
  · exact absurd rfl h
  · rfl

theorem decoderOnly_startOf (i : Instr) (s : State) : DecoderOnly s (startOf i s) := by
  unfold startOf
  split <;> rfl

/-- Each of the eight commands takes its steps by `runCommand`, its ports being in bounds where it is well formed. -/
theorem exec_command (h : i.isCommand = true) : ∃ work, ∀ s, exec i s = runCommand i i.wf (startOf i) work s := by
  cases i
  case encReq | encRsp | encSip | encCep | decRecv | chkCompute | chanOpenCmd | chanCloseCmd =>
    exact ⟨_, fun _ => rfl⟩
  all_goals simp [Instr.isCommand] at h

/-- The accept step (10_state.md R43). -/
theorem exec_accepts (hc : i.isCommand = true) (hw : i.wf = true) (hr : Ready s) :
    exec i s = .next (startOf i (accept i s)) := by
  obtain ⟨work, h⟩ := exec_command hc
  rw [h, hw, runCommand_ready i _ _ hr]

/-- A command word in a block that is not `BUSY`: accepted, if it is a well-formed command, or refused. -/
theorem exec_ready_next (hr : Ready s) (hs : (encode i).slot = .command) (h : exec i s = .next t) :
    (i.isCommand = true ∧ i.wf = true ∧ t = startOf i (accept i s)) ∨ t = refuseRequest s := by
  cases hc : i.isCommand with
  | false =>
    rw [exec_reserved hc hs] at h
    cases h
    exact .inr rfl
  | true =>
    obtain ⟨work, hx⟩ := exec_command hc
    rw [hx] at h
    obtain ⟨-, hw, ht⟩ | ⟨hp, -⟩ | ⟨-, -, ht⟩ := runCommand_next h
    · exact .inl ⟨rfl, hw, ht⟩
    · exact absurd hp (not_executing_of_ready hr)
    · exact .inr ht

/-! ## The step of a command in progress -/

/-- `i` is one of the four encodes. -/
def IsEncode (i : Instr) : Prop := ∃ alg dev x pbuf,
  i = .encReq alg dev x pbuf ∨ i = .encRsp alg dev x pbuf ∨ i = .encSip alg dev x ∨ i = .encCep alg dev x

/-- What the step of `i`, in progress in `s`, does where it gives a next state `t`. -/
inductive WorkCase (i : Instr) (s t : State) : Prop where
  | encoded (hi : IsEncode i) (ok : Bool) (checkOut : Option Word) (tx : List Byte)
      (ht : t = { s with phase := .done, ok := ok, checkOut := checkOut, tx := tx })
  | checked (alg : Alg) (dbuf : List Byte) (n : Nat) (hi : i = .chkCompute alg dbuf n) (checkOut : Option Word)
      (ht : t = { s with phase := .done, ok := true, checkOut := checkOut })
  | channel (hi : i = .chanOpenCmd ∨ i = .chanCloseCmd) (ok chanOpen : Bool) (rx : List Byte) (tape : List Nat)
      (n : Nat)
      (ht : t = { s with phase := .done, ok := ok, chanOpen := chanOpen, rx := rx, tape := tape, drawCount := n })
  | received (hi : i = .decRecv) (h : receiveStep s = .next t)
  | refused (hi : i.isCommand = false) (ht : t = refuseRequest s)
  | wire (hi : i.isCommand = false) (ht : DecoderOnly s t)

/-- An encode writes `CHECK_OUT` and `TX`, or neither, and completes (41_encoder.md R182). -/
theorem encodeFrame_spec (k : Kind) (alg : Alg) (dev : Word) (body : List Byte) (s : State) : ∃ ok checkOut tx,
    encodeFrame k alg dev body s = { s with phase := .done, ok := ok, checkOut := checkOut, tx := tx } := by
  unfold encodeFrame
  split
  · exact ⟨_, _, _, rfl⟩
  · exact ⟨_, _, _, rfl⟩

theorem workCase_encodeFrame (hi : IsEncode i) (k : Kind) (alg : Alg) (dev : Word) (body : List Byte) (s : State) :
    WorkCase i s (encodeFrame k alg dev body s) := by
  obtain ⟨ok, checkOut, tx, h⟩ := encodeFrame_spec k alg dev body s
  exact .encoded hi ok checkOut tx h

theorem workCase_openChannel (s : State) : WorkCase .chanOpenCmd s (openChannel s) := by
  obtain ⟨tape, n, hd⟩ := draw_snd s
  unfold openChannel
  split
  · exact .channel (.inl rfl) _ _ _ _ _ rfl
  · rw [hd]
    exact .channel (.inl rfl) _ _ _ _ _ rfl

theorem workCase_closeChannel (s : State) : WorkCase .chanCloseCmd s (closeChannel s) := by
  obtain ⟨tape, n, hd⟩ := draw_snd s
  unfold closeChannel
  split
  · rw [hd]
    exact .channel (.inr rfl) _ _ _ _ _ rfl
  · exact .channel (.inr rfl) _ _ _ _ _ rfl

/-- A wire byte acts on the decoder's registers only. -/
theorem decoderOnly_wireByte {w : DecState} {take : State → State} (h : wireByte w take s = .next t)
    (htake : DecoderOnly s (take s)) : DecoderOnly s t := by
  unfold wireByte at h
  split at h
  · cases h
    exact htake
  · cases h

/-- Everything the step of a command in progress can answer with a next state. -/
theorem exec_executing_next (h : exec i s = .next t) (hi : Executing i s) : WorkCase i s t := by
  cases i
  case encReq alg dev x pbuf =>
    cases (exec_encReq_executing hi).symm.trans h
    exact workCase_encodeFrame ⟨alg, dev, x, pbuf, .inl rfl⟩ _ _ _ _ _
  case encRsp alg dev x pbuf =>
    cases (exec_encRsp_executing hi).symm.trans h
    exact workCase_encodeFrame ⟨alg, dev, x, pbuf, .inr (.inl rfl)⟩ _ _ _ _ _
  case encSip alg dev x =>
    cases (exec_encSip_executing hi).symm.trans h
    exact workCase_encodeFrame ⟨alg, dev, x, [], .inr (.inr (.inl rfl))⟩ _ _ _ _ _
  case encCep alg dev x =>
    cases (exec_encCep_executing hi).symm.trans h
    exact workCase_encodeFrame ⟨alg, dev, x, [], .inr (.inr (.inr rfl))⟩ _ _ _ _ _
  case decRecv => exact .received rfl ((exec_decRecv_executing hi).symm.trans h)
  case chkCompute alg dbuf n =>
    cases (exec_chkCompute_executing hi).symm.trans h
    exact .checked alg dbuf n rfl _ rfl
  case chanOpenCmd =>
    cases (exec_chanOpenCmd_executing hi).symm.trans h
    exact workCase_openChannel s
  case chanCloseCmd =>
    cases (exec_chanCloseCmd_executing hi).symm.trans h
    exact workCase_closeChannel s
  case wireKindRequest | wireKindResponse | wireKindInterrupt | wireKindCommError | wireEcaNone | wireEcaXor8 |
      wireEcaChecksum16 | wireEcaLrc16 | wireEcaFletcher16 | wireEcaCrc16 | wireSentinel =>
    exact .wire rfl (decoderOnly_wireByte h rfl)
  all_goals
    cases h
    exact .refused rfl rfl

/-! ## The step of the machine -/

theorem CodecTurn.eq_events (h : CodecTurn s u) : ∃ es, u = { s with events := es } := by
  obtain ⟨-, rfl⟩ | ⟨es, -, rfl⟩ | ⟨k, es, -, -, rfl⟩ := h
  · exact ⟨_, rfl⟩
  · exact ⟨es, rfl⟩
  · exact ⟨_, rfl⟩

/-- What a step from `s` does where it gives a next state `t`. -/
inductive StepCase (s t : State) : Prop where
  /-- Nothing of the block changes but its receive stream. -/
  | outside (rx : List Byte) (es : List Event) (reads : List (HostReg × Nat)) (f : Supply) (n : Nat)
      (ht : t = { s with rx := rx, events := es, hostReads := reads, supply := f, drawCount := n })
  /-- A presented command, or a write of `CFG_RTO` while `BUSY`, is refused. -/
  | refused (es : List Event) (ht : t = { s with events := es, refusalMark := true })
      (hreq : (∃ w p, s.events = .command w p :: es) ∨ ((∃ v, s.events = .writeRto v :: es) ∧ ¬Ready s))
  | rtoWritten (v : Nat) (es : List Event) (he : s.events = .writeRto v :: es) (hr : Ready s)
      (ht : t = { s with events := es, cfgRto := rtoHeld s.cfg.rtoWidth v })
  | reset (es : List Event) (he : s.events = .reset :: es) (ht : t = resetBlock { s with events := es })
  | accepted (i : Instr) (es : List Event) (hr : Ready s) (hc : i.isCommand = true) (hw : i.wf = true)
      (ht : t = startOf i (accept i { s with events := es }))
  | worked (i : Instr) (es : List Event) (hi : Executing i s)
      (h : exec i (supplyNext { s with events := es }) = .next t)

/-- Everything a step can answer with a next state. -/
theorem step_cases (h : step s = .next t) : StepCase s t := by
  obtain ⟨i, u, hf, hx⟩ | hf := step_next h
  · obtain ⟨hp, v, hv, rfl⟩ | ⟨hb, w, p, es, he, rfl, rfl⟩ := fetch_run hf
    · obtain ⟨es, rfl⟩ := hv.eq_events
      exact .worked i es hp hx
    · obtain ⟨hc, hw, ht⟩ | ht := exec_ready_next (s := { s with events := es }) hb (encode_decodeCommand_slot w p) hx
      · exact .accepted _ es hb hc hw ht
      · exact .refused es ht (.inl ⟨w, p, he⟩)
  · obtain ⟨-, v, hv, rfl⟩ | ⟨-, w, p, es, he, rfl⟩ | ⟨v, es, he, rfl⟩ | ⟨r, n, es, -, rfl⟩ | ⟨bs, es, -, rfl⟩ |
      ⟨f, es, -, rfl⟩ | ⟨es, he, rfl⟩ | ⟨k, es, -, -, rfl⟩ := fetch_input hf
    · obtain ⟨es, rfl⟩ := hv.eq_events
      exact .outside _ _ _ _ _ rfl
    · exact .refused es rfl (.inl ⟨w, p, he⟩)
    · by_cases hr : Ready s
      · exact .rtoWritten v es he hr (writeRto_ready (s := { s with events := es }) hr)
      · exact .refused es (writeRto_busy (s := { s with events := es }) hr) (.inr ⟨⟨v, he⟩, hr⟩)
    · exact .outside _ _ _ _ _ rfl
    · exact .outside _ _ _ _ _ rfl
    · exact .outside _ _ _ _ _ rfl
    · exact .reset es he rfl
    · exact .outside _ _ _ _ _ rfl

end Sys2Proof.Machine

open Sys2Proof Sys2Proof.Machine

/-- Settles O15, from the accept step and the two refusals while `BUSY`. -/
theorem oneCommandAtATime : Obligations.OneCommandAtATime := by
  refine ⟨fun i s hc hw hr hne => ?_, fun s hr => exec_accepts rfl rfl hr, fun s w p es => step_command_busy,
    fun s v es => step_writeRto_busy⟩
  rw [exec_accepts hc hw hr, startOf_of_ne hne]
  rfl
end

section
/-! The registers that a step changes, by the case of the step (`StepCase`, `WorkCase`, `ReceiveCase`). -/

namespace Sys2Proof.Machine

variable {s t : State} {i : Instr}

theorem SameResults.refl (s : State) : SameResults s s := ⟨rfl, rfl, rfl, rfl, rfl, rfl, rfl⟩

/-- The command in progress is legal, and `STATUS.OP` names it. -/
theorem CommandInv.executing (h : CommandInv s) (hi : Executing i s) :
    i.isCommand = true ∧ i.wf = true ∧ s.op = opcode i := by
  rw [CommandInv, hi] at h
  exact h

/-- A command's step changes the result registers only where it completes a receive (10_state.md R50). -/
theorem WorkCase.results (h : WorkCase i s t) : SameResults s t ∨ (i = .decRecv ∧ t.phase = .done) := by
  cases h with
  | encoded hi ok checkOut tx ht => subst ht; exact .inl (.refl s)
  | checked alg dbuf n hi checkOut ht => subst ht; exact .inl (.refl s)
  | channel hi ok chanOpen rx tape n ht => subst ht; exact .inl (.refl s)
  | refused hi ht => subst ht; exact .inl (.refl s)
  | wire hi ht => exact .inl ht.sameResults
  | received hi h =>
    cases receiveStep_next h with
    | goesOn h => exact .inl h.sameResults
    | rejected c u hc hu ht => subst ht; exact .inr ⟨hi, rfl⟩
    | accepted k col present payload u hu ht => subst ht; exact .inr ⟨hi, rfl⟩

/-- The end of a receive leaves what it is no part of. -/
theorem ReceiveCase.kept (h : ReceiveCase s t) :
    t.cfg = s.cfg ∧ t.cfgRto = s.cfgRto ∧ t.chanOpen = s.chanOpen ∧ t.checkOut = s.checkOut ∧
      t.refusalMark = s.refusalMark := by
  cases h with
  | goesOn h =>
    obtain ⟨hcfg, -, hrest⟩ := h.kept
    exact ⟨hcfg, hrest⟩
  | rejected c u hc hu ht =>
    obtain ⟨hcfg, -, hrest⟩ := hu.kept
    subst ht
    exact ⟨hcfg, hrest⟩
  | accepted k col present payload u hu ht =>
    obtain ⟨hcfg, -, hrest⟩ := hu.kept
    subst ht
    exact ⟨hcfg, hrest⟩

/-- Which command's step changes `CHAN_OPEN`, `CHECK_OUT` or the refusal mark. -/
theorem WorkCase.writers (h : WorkCase i s t) :
    t.cfg = s.cfg ∧ t.cfgRto = s.cfgRto ∧
    (t.chanOpen ≠ s.chanOpen → i = .chanOpenCmd ∨ i = .chanCloseCmd) ∧
    (t.checkOut ≠ s.checkOut → IsEncode i ∨ ∃ alg dbuf n, i = .chkCompute alg dbuf n) ∧
    (t.refusalMark = s.refusalMark ∨ (t.refusalMark = true ∧ i.isCommand = false)) := by
  cases h with
  | encoded hi ok checkOut tx ht =>
    subst ht
    exact ⟨rfl, rfl, absurd rfl, fun _ => .inl hi, .inl rfl⟩
  | checked alg dbuf n hi checkOut ht =>
    subst ht
    exact ⟨rfl, rfl, absurd rfl, fun _ => .inr ⟨alg, dbuf, n, hi⟩, .inl rfl⟩
  | channel hi ok chanOpen rx tape n ht =>
    subst ht
    exact ⟨rfl, rfl, fun _ => hi, absurd rfl, .inl rfl⟩
  | received hi h =>
    obtain ⟨hcfg, hrto, hopen, hcheck, hmark⟩ := (receiveStep_next h).kept
    exact ⟨hcfg, hrto, absurd hopen, absurd hcheck, .inl hmark⟩
  | refused hi ht =>
    subst ht
    exact ⟨rfl, rfl, absurd rfl, absurd rfl, .inr ⟨rfl, hi⟩⟩
  | wire hi ht =>
    obtain ⟨hcfg, -, hrto, hopen, hcheck, hmark⟩ := ht.kept
    exact ⟨hcfg, hrto, absurd hopen, absurd hcheck, .inl hmark⟩

end Sys2Proof.Machine

open Sys2Proof Sys2Proof.Machine

/-- Settles O44: of the cases of a step only a completed receive and the reset touch the result registers. -/
theorem resultsChangeOnlyWhenAReceiveCompletes : Obligations.ResultsChangeOnlyWhenAReceiveCompletes := by
  intro s t h
  cases step_cases h with
  | outside rx es reads f n ht => subst ht; exact .inl (.refl s)
  | refused es ht hreq => subst ht; exact .inl (.refl s)
  | rtoWritten v es he hr ht => subst ht; exact .inl (.refl s)
  | reset es he ht => exact .inr (.inr ⟨es, he⟩)
  | accepted i es hr hc hw ht => subst ht; exact .inl (decoderOnly_startOf i _).sameResults
  | worked i es hi h =>
    obtain hsame | ⟨rfl, hdone⟩ := (exec_executing_next h hi).results
    · exact .inl hsame
    · exact .inr (.inl ⟨hi, hdone⟩)

/-- Settles O47, register by register in each case of a step. -/
theorem registersChangeOnlyByTheirWriters : Obligations.RegistersChangeOnlyByTheirWriters := by
  intro s t h
  cases step_cases h with
  | outside rx es reads f n ht =>
    subst ht
    exact ⟨rfl, absurd rfl, absurd rfl, absurd rfl, id, fun _ => absurd rfl⟩
  | refused es ht hreq =>
    subst ht
    exact ⟨rfl, absurd rfl, absurd rfl, absurd rfl, fun _ => rfl, fun _ _ => ⟨es, rfl, hreq⟩⟩
  | rtoWritten v es he hr ht =>
    subst ht
    exact ⟨rfl, fun _ => .inl ⟨v, es, he, hr, rtoHeld_lt _ v, rtoHeld_of_lt⟩, absurd rfl, absurd rfl, id,
      fun _ => absurd rfl⟩
  | reset es he ht =>
    subst ht
    exact ⟨rfl, fun _ => .inr ⟨es, he⟩, fun _ => .inr (.inr ⟨es, he⟩), fun _ => .inr ⟨es, he⟩, id,
      fun _ => absurd rfl⟩
  | accepted i es hr hc hw ht =>
    subst ht
    obtain ⟨hcfg, -, hrto, hopen, hcheck, hmark⟩ := (decoderOnly_startOf i (accept i { s with events := es })).kept
    exact ⟨hcfg, absurd hrto, absurd hopen, absurd hcheck, hmark.trans, fun _ => absurd hmark⟩
  | worked i es hi h =>
    obtain ⟨hcfg, hrto, hopen, hcheck, hmark⟩ := (exec_executing_next h hi).writers
    refine ⟨hcfg, absurd hrto, fun hne => ?_, fun hne => ?_, fun hs => ?_, fun hinv hne => ?_⟩
    · obtain rfl | rfl := hopen hne
      · exact .inl hi
      · exact .inr (.inl hi)
    · obtain ⟨alg, dev, x, pbuf, rfl | rfl | rfl | rfl⟩ | ⟨alg, dbuf, n, rfl⟩ := hcheck hne
      · exact .inl ⟨alg, dev, x, pbuf, 0, .inl hi⟩
      · exact .inl ⟨alg, dev, x, pbuf, 0, .inr (.inl hi)⟩
      · exact .inl ⟨alg, dev, x, pbuf, 0, .inr (.inr (.inl hi))⟩
      · exact .inl ⟨alg, dev, x, pbuf, 0, .inr (.inr (.inr (.inl hi)))⟩
      · exact .inl ⟨alg, 0, 0, dbuf, n, .inr (.inr (.inr (.inr hi)))⟩
    · obtain hmark | ⟨hmark, -⟩ := hmark
      · exact hmark.trans hs
      · exact hmark
    · obtain hmark | ⟨-, hnot⟩ := hmark
      · exact absurd hmark hne
      · obtain ⟨hcmd, -, -⟩ := hinv.executing hi
        exact absurd (hcmd.symm.trans hnot) nofun
end

section
/-! The invariant: what is left of it between the reading and the end of a receive's step (`Receiving`), that each end of
the step restores it, and that every other step keeps it. -/

namespace Sys2Proof.Machine

variable {s t u v : State} {i : Instr}

/-! ## Parts of the invariant -/

/-- A block that is receiving nothing has `ST` at `D_IDLE`. -/
theorem ReceiveInv.st_idle (h : ReceiveInv s) (hn : ¬Executing .decRecv s) : s.st = .idle := by
  unfold ReceiveInv at h
  split at h
  · assumption
  all_goals exact absurd h.1 hn

theorem receiveInv_of_idle (hst : s.st = .idle) (hn : ¬Executing .decRecv s) : ReceiveInv s := by
  rw [ReceiveInv, hst]
  exact hn

/-- A receive in progress has slept no more than `CFG_RTO + 1` ticks. -/
theorem ReceiveInv.ticks_le (h : ReceiveInv s) (he : Executing .decRecv s) : s.ticks ≤ s.cfgRto + 1 := by
  unfold ReceiveInv at h
  split at h
  · exact absurd he h
  · obtain ⟨-, -, ht⟩ := h; exact ht
  · obtain ⟨-, -, -, ht⟩ := h; exact ht
  · obtain ⟨-, -, -, ht, -⟩ := h; exact ht
  · obtain ⟨-, -, -, ht, -⟩ := h; exact ht
  · obtain ⟨-, -, -, ht, -⟩ := h; exact ht

/-- A receive stays where it is while it sleeps within its budget. -/
theorem ReceiveInv.setTicks {n : Nat} (h : ReceiveInv s) (hn : n ≤ s.cfgRto + 1) :
    ReceiveInv { s with ticks := n } := by
  cases hst : s.st <;> simp only [ReceiveInv, hst] at h ⊢
  case idle => exact h
  case scan =>
    obtain ⟨he, hfbn, -⟩ := h
    exact ⟨he, hfbn, hn⟩
  case waitHdr =>
    obtain ⟨he, hfbn, hneed, -⟩ := h
    exact ⟨he, hfbn, hneed, hn⟩
  case waitLen | waitBody | waitShort =>
    obtain ⟨he, hfbn, hneed, -, hk⟩ := h
    exact ⟨he, hfbn, hneed, hn, hk⟩

theorem params_wf_iff {p : Params} : p.wf = true ↔ p.readTimeout < 2 ^ p.rtoWidth ∧ p.rtoWidth < p.tickWidth := by
  rw [Params.wf, Bool.and_eq_true, decide_eq_true_iff, decide_eq_true_iff]

/-- The parameters the spec decides are legal (00_scope.md R12, R23, R24). -/
theorem params_wf_decided : Config.decided.wf = true := by
  refine params_wf_iff.mpr ⟨Nat.mod_lt _ (Nat.two_pow_pos _), ?_⟩
  show Config.rtoWidth < Config.rtoWidth + 1 + Config.tickWidthExtra
  omega

/-- `P_READ_TIMEOUT`, the reset value of `CFG_RTO`, fits the register. -/
theorem readTimeout_lt {p : Params} (h : p.wf = true) : p.readTimeout < 2 ^ p.rtoWidth :=
  (params_wf_iff.mp h).1

/-- The reset registers meet the invariant, whatever the parameters are. -/
theorem resetBlock_inv (h : s.cfg.wf = true) : (resetBlock s).Inv where
  command := trivial
  config := ⟨h, readTimeout_lt h⟩
  buffer := ⟨rfl, nofun, Nat.zero_le _⟩
  receive := nofun
  results := ⟨fun _ => rfl, rfl, rfl, rfl, rfl, rfl, rfl⟩

/-- A command other than `DEC_RECV` that completes keeps the invariant, whatever it does to `CHAN_OPEN`, `CHECK_OUT` and
the streams. -/
theorem State.Inv.completed (h : s.Inv) (hn : ¬Executing .decRecv s) (ok chanOpen : Bool) (checkOut : Option Word)
    (rx tx : List Byte) (tape : List Nat) (n : Nat) :
    State.Inv { s with
      phase := .done, ok := ok, chanOpen := chanOpen, checkOut := checkOut, rx := rx, tx := tx, tape := tape
      drawCount := n } :=
  ⟨trivial, h.config, h.buffer, receiveInv_of_idle (h.receive.st_idle hn) nofun, h.results⟩

/-- The accept step keeps the invariant. -/
theorem State.Inv.accepted (h : s.Inv) (hr : Ready s) (hc : i.isCommand = true) (hw : i.wf = true) :
    (startOf i (accept i s)).Inv := by
  by_cases hi : i = .decRecv
  · subst hi
    obtain ⟨hwf, hmem, -⟩ := h.buffer
    exact ⟨⟨hc, hw, rfl⟩, h.config, ⟨hwf, hmem, Nat.zero_le _⟩, ⟨rfl, rfl, Nat.zero_le _⟩, h.results⟩
  · rw [startOf_of_ne hi]
    have hidle : s.st = .idle := h.receive.st_idle (not_executing_of_ready hr)
    exact ⟨⟨hc, hw, rfl⟩, h.config, h.buffer, receiveInv_of_idle hidle fun he => hi (Phase.busy.inj he), h.results⟩

/-! ## A receive's step -/

/-- A receive in progress, wherever it stands in the frame: the invariant without what `ST` says of its registers. -/
structure Receiving (s : State) : Prop where
  executing : Executing .decRecv s
  command : CommandInv s
  config : ConfigInv s
  buffer : BufferInv s
  ticks : s.ticks ≤ s.cfgRto + 1
  results : ResultInv s

theorem State.Inv.receiving (h : s.Inv) (he : Executing .decRecv s) : Receiving s :=
  ⟨he, h.command, h.config, h.buffer, h.receive.ticks_le he, h.results⟩

theorem Receiving.headerOnly (h : Receiving u) (hv : HeaderOnly u v) : Receiving v := by
  rw [HeaderOnly] at hv
  rw [hv]
  exact ⟨h.executing, h.command, h.config, h.buffer, h.ticks, h.results⟩

theorem Receiving.after_chanRead (h : Receiving s) (n : Nat) : Receiving (chanRead n s).2 := by
  obtain ⟨rx, tape, c, hr⟩ := chanRead_snd n s
  rw [hr]
  exact ⟨h.executing, h.command, h.config, h.buffer, h.ticks, h.results⟩

theorem Receiving.after_fbAppend {bs : List Byte} (h : Receiving s) (hfit : s.fbn + bs.length ≤ Config.frameMax) :
    Receiving (fbAppend bs s) := by
  obtain ⟨hwf, hmem, -⟩ := h.buffer
  exact ⟨h.executing, h.command, h.config, ⟨Memory.wf_writeBytes hwf, Memory.mem_writeBytes hmem hfit, hfit⟩, h.ticks,
    h.results⟩

/-- A receive that ends writes no cause where the register does not exist (10_state.md R42). -/
theorem ResultInv.causeAfter_eq_none (h : ResultInv s) (c : Cause) (hd : s.cfg.hasDiagCause = false) :
    causeAfter s c = none := by
  obtain ⟨hnone, -⟩ := h
  rw [causeAfter, hd]
  exact hnone hd

/-- A rejected receive meets the invariant (60_exceptions.md R300). -/
theorem Receiving.inv_reject {c : Cause} (h : Receiving u) (hc : c ≠ .accepted) : (reject c u).Inv where
  command := trivial
  config := h.config
  buffer := h.buffer
  receive := nofun
  results := ⟨h.results.causeAfter_eq_none c, ⟨rfl, rfl, rfl, rfl, rfl, rfl⟩, fun hd => ⟨c, if_pos hd, hc⟩⟩

theorem longKind_eq (c : Byte) : longKind c = .request ∨ longKind c = .response := by
  unfold longKind
  split
  · exact .inl rfl
  · exact .inr rfl

theorem shortKind_eq (c : Byte) : shortKind c = .interrupt ∨ shortKind c = .commError := by
  unfold shortKind
  split
  · exact .inl rfl
  · exact .inr rfl

/-- An accepted Request or Response meets the invariant (42_decoder.md R247). -/
theorem Receiving.inv_acceptLong {k : Kind} {payload : List Byte} (h : Receiving u)
    (hk : k = .request ∨ k = .response) (hlen : payload.length = u.hLen.toNat) :
    (acceptFrame k u.hLen true payload u).Inv := by
  have hcol : some u.hLen = some (BitVec.ofNat 12 payload.length) := by
    rw [hlen, BitVec.ofNat_toNat, BitVec.setWidth_eq]
  have hmax : payload.length ≤ 4095 := by rw [hlen]; exact Nat.le_of_lt_succ u.hLen.isLt
  refine ⟨trivial, h.config, h.buffer, nofun, h.results.causeAfter_eq_none .accepted, ?_⟩
  obtain rfl | rfl := hk <;> exact ⟨rfl, hcol, hmax, rfl, rfl, fun hd => if_pos hd⟩

/-- An accepted Interrupt or CommError meets the invariant (42_decoder.md R257). -/
theorem Receiving.inv_acceptShort {k : Kind} (h : Receiving u) (hk : k = .interrupt ∨ k = .commError)
    (code : Byte) : (acceptFrame k (code.setWidth 12) false [] u).Inv := by
  refine ⟨trivial, h.config, h.buffer, nofun, h.results.causeAfter_eq_none .accepted, ?_⟩
  obtain rfl | rfl := hk <;> exact ⟨rfl, ⟨code, rfl⟩, rfl, rfl, rfl, fun hd => if_pos hd⟩

theorem Receiving.ticks_enterWait (h : Receiving u) (w : DecState) (n : Nat) :
    (enterWait w n u).ticks ≤ (enterWait w n u).cfgRto + 1 := by
  rw [enterWait_ticks]
  split
  · exact Nat.zero_le _
  · exact h.ticks

/-- Entering a wait keeps the invariant where the wait's own registers are right. -/
theorem Receiving.inv_enterWait {w : DecState} {n : Nat} (h : Receiving u) (hr : ReceiveInv (enterWait w n u)) :
    (enterWait w n u).Inv := ⟨h.command, h.config, h.buffer, hr, h.results⟩

/-- Taking a kind character leads to the wait of that kind (42_decoder.md R235). -/
theorem Receiving.inv_takeKind (h : Receiving u) (hn : u.fbn = 6) (k : Kind) : (takeKind k u).Inv := by
  have hu : Receiving { u with hKind := kindChar k } :=
    ⟨h.executing, h.command, h.config, h.buffer, h.ticks, h.results⟩
  have ht := hu.ticks_enterWait (kindWait k) (kindNeed k)
  refine hu.inv_enterWait ?_
  cases k with
  | request => exact ⟨h.executing, hn, rfl, ht, .inl rfl⟩
  | response => exact ⟨h.executing, hn, rfl, ht, .inr rfl⟩
  | interrupt => exact ⟨h.executing, hn, rfl, ht, .inl rfl⟩
  | commError => exact ⟨h.executing, hn, rfl, ht, .inr rfl⟩

/-- Taking the sentinel leads to the header wait (42_decoder.md R230). -/
theorem Receiving.inv_takeSentinel (h : Receiving u) : (takeSentinel u).Inv := by
  obtain ⟨hwf, hmem, -⟩ := h.buffer
  have hu : Receiving { u with fb := Memory.writeBytes u.fb 0 [sentinelByte], fbn := 1 } :=
    ⟨h.executing, h.command, h.config,
      ⟨Memory.wf_writeBytes hwf, Memory.mem_writeBytes hmem (by decide), (by decide : 1 ≤ 4110)⟩, h.ticks, h.results⟩
  exact hu.inv_enterWait ⟨h.executing, rfl, rfl, hu.ticks_enterWait .waitHdr 5⟩

theorem Receiving.inv_processHeader (h : Receiving u) (hn : u.fbn = 6) : (processHeader u).Inv := by
  obtain ⟨v, ⟨c, hc, hp⟩ | ⟨k, hp⟩, hv⟩ := processHeader_cases u
  · rw [hp]
    exact (h.headerOnly hv).inv_reject hc
  · rw [hp]
    rw [HeaderOnly] at hv
    exact (h.headerOnly hv).inv_takeKind (by rw [hv]; exact hn) k

theorem Receiving.inv_processLength (h : Receiving u) (hn : u.fbn = 9) (hk : LongChar u.hKind) :
    (processLength u).Inv := by
  obtain hp | ⟨n, hlt, hp⟩ := processLength_cases u
  · rw [hp]
    exact h.inv_reject nofun
  · have hu : Receiving { u with hLen := BitVec.ofNat 12 n } := h.headerOnly rfl
    have hlen : n + 6 = (BitVec.ofNat 12 n).toNat + 6 := by rw [BitVec.toNat_ofNat, Nat.mod_eq_of_lt hlt]
    rw [hp]
    exact hu.inv_enterWait ⟨h.executing, hn, hlen, hu.ticks_enterWait .waitBody (n + 6), hk⟩

theorem Receiving.inv_processBody (h : Receiving u) : (processBody u).Inv := by
  obtain ⟨v, ⟨c, hc, hp⟩ | hp, hv⟩ := processBody_cases u
  · rw [hp]
    exact (h.headerOnly hv).inv_reject hc
  · rw [hp]
    exact (h.headerOnly hv).inv_acceptLong (longKind_eq _) (Memory.length_readBytes _ _ _)

theorem Receiving.inv_processShort (h : Receiving u) : (processShort u).Inv := by
  obtain ⟨v, ⟨c, hc, hp⟩ | hp, hv⟩ := processShort_cases u
  · rw [hp]
    exact (h.headerOnly hv).inv_reject hc
  · rw [hp]
    exact (h.headerOnly hv).inv_acceptShort (shortKind_eq _) v.hCode

theorem State.Inv.after_scanStep (h : s.Inv) (he : Executing .decRecv s) : (scanStep s).Inv := by
  have hu := (h.receiving he).after_chanRead 1
  obtain hs | hs | hs := scanStep_cases s <;> rw [hs]
  · exact hu.inv_reject nofun
  · exact hu.inv_takeSentinel
  · obtain ⟨rx, tape, c, hr⟩ := chanRead_snd 1 s
    rw [hr]
    exact ⟨h.command, h.config, h.buffer, h.receive, h.results⟩

/-- A poll keeps the invariant where the processing of a whole read does (42_decoder.md R225). -/
theorem State.Inv.after_pollStep {process : State → State} (h : s.Inv) (he : Executing .decRecv s)
    (hp : ∀ u, Receiving u → u.fbn = s.fbn + s.need → u.hKind = s.hKind → (process u).Inv)
    (hs : pollStep process s = .next t) : t.Inv := by
  have hread : s.fbn + (chanRead s.need s).1.length ≤ Config.frameMax →
      Receiving (fbAppend (chanRead s.need s).1 (chanRead s.need s).2) := fun hfit =>
    ((h.receiving he).after_chanRead s.need).after_fbAppend (by rwa [chanRead_fbn])
  obtain ⟨-, hfit, ⟨-, rfl⟩ | ⟨hlen, rfl⟩⟩ | ⟨-, -, rfl⟩ | ⟨-, ht, rfl⟩ := pollStep_next hs
  · exact (hread hfit).inv_reject nofun
  · have hwhole : (chanRead s.need s).1.length = s.need := Nat.le_antisymm (length_chanRead_le _ _) hlen
    exact hp _ (hread hfit) (by rw [fbAppend_fbn, chanRead_fbn, hwhole]) (by rw [fbAppend_hKind, chanRead_hKind])
  · exact (h.receiving he).inv_reject nofun
  · exact ⟨h.command, h.config, h.buffer, h.receive.setTicks (Nat.succ_le_succ ht), h.results⟩

/-- The step of a receive keeps the invariant, each wait having read up to its place in the frame. -/
theorem State.Inv.after_receiveStep (h : s.Inv) (he : Executing .decRecv s) (hs : receiveStep s = .next t) : t.Inv := by
  have hr := h.receive
  cases hst : s.st <;> simp only [receiveStep, hst] at hs <;> simp only [ReceiveInv, hst] at hr
  case idle => cases hs
  case scan =>
    cases hs
    exact h.after_scanStep he
  case waitHdr =>
    obtain ⟨-, hfbn, hneed, -⟩ := hr
    exact h.after_pollStep he (fun u hu hn _ => hu.inv_processHeader (by omega)) hs
  case waitLen =>
    obtain ⟨-, hfbn, hneed, -, hk⟩ := hr
    exact h.after_pollStep he (fun u hu hn hkind => hu.inv_processLength (by omega) (hkind ▸ hk)) hs
  case waitBody => exact h.after_pollStep he (fun u hu _ _ => hu.inv_processBody) hs
  case waitShort => exact h.after_pollStep he (fun u hu _ _ => hu.inv_processShort) hs

/-- The step of a command in progress keeps the invariant. -/
theorem State.Inv.after_work (h : s.Inv) (hi : Executing i s) (hw : WorkCase i s t) : t.Inv := by
  obtain ⟨hcmd, -, -⟩ := h.command.executing hi
  have hother : i ≠ .decRecv → ¬Executing .decRecv s := fun hne he => hne (Phase.busy.inj (hi.symm.trans he))
  cases hw with
  | encoded henc ok checkOut tx ht =>
    subst ht
    have hne : i ≠ .decRecv := by obtain ⟨alg, dev, x, pbuf, rfl | rfl | rfl | rfl⟩ := henc <;> nofun
    exact h.completed (hother hne) ok s.chanOpen checkOut s.rx tx s.tape s.drawCount
  | checked alg dbuf n hchk checkOut ht =>
    subst ht hchk
    exact h.completed (hother nofun) true s.chanOpen checkOut s.rx s.tx s.tape s.drawCount
  | channel hchan ok chanOpen rx tape n ht =>
    subst ht
    have hne : i ≠ .decRecv := by obtain rfl | rfl := hchan <;> nofun
    exact h.completed (hother hne) ok chanOpen s.checkOut rx s.tx tape n
  | received hrecv hs =>
    subst hrecv
    exact h.after_receiveStep hi hs
  | refused hnot ht => exact absurd (hcmd.symm.trans hnot) nofun
  | wire hnot ht => exact absurd (hcmd.symm.trans hnot) nofun

end Sys2Proof.Machine

open Sys2Proof Sys2Proof.Machine

/-- Settles O40, by the case of the step. -/
theorem stepKeepsTheInvariant : Obligations.StepKeepsTheInvariant := by
  intro s t h hs
  cases step_cases hs with
  | outside rx es reads f n ht => subst ht; exact ⟨h.command, h.config, h.buffer, h.receive, h.results⟩
  | refused es ht hreq => subst ht; exact ⟨h.command, h.config, h.buffer, h.receive, h.results⟩
  | rtoWritten v es he hr ht =>
    subst ht
    have hn : ¬Executing .decRecv s := not_executing_of_ready hr
    obtain ⟨hcfg, -⟩ := h.config
    exact ⟨h.command, ⟨hcfg, rtoHeld_lt _ v⟩, h.buffer, receiveInv_of_idle (h.receive.st_idle hn) hn, h.results⟩
  | reset es he ht =>
    subst ht
    obtain ⟨hcfg, -⟩ := h.config
    exact resetBlock_inv hcfg
  | accepted i es hr hc hw ht =>
    subst ht
    have hes : State.Inv { s with events := es } := ⟨h.command, h.config, h.buffer, h.receive, h.results⟩
    exact hes.accepted hr hc hw
  | worked i es hi hx =>
    have hu : (supplyNext { s with events := es }).Inv := ⟨h.command, h.config, h.buffer, h.receive, h.results⟩
    exact hu.after_work hi (exec_executing_next hx hi)

/-- Settles O41: the decided parameters are legal, and nothing is in progress or written. -/
theorem resetMeetsTheInvariant : Obligations.ResetMeetsTheInvariant where
  command := trivial
  config := ⟨params_wf_decided, readTimeout_lt params_wf_decided⟩
  buffer := ⟨rfl, nofun, Nat.zero_le _⟩
  receive := nofun
  results := ⟨fun _ => rfl, rfl, rfl, rfl, rfl, rfl, rfl⟩
end

section
/-! SUPPORT. Arrivals, the channel's own supply, draws and refused ports, case by case. -/

namespace Sys2Proof.Machine

variable {s : State} {es : List Event}

/-! ## Arrivals -/

theorem step_arrive {bs : List Byte} (he : s.events = .arrive bs :: es) :
    step s = .next (arrive bs { s with events := es }) := by
  simp only [step, fetch, he, fetchEvent]

theorem step_supply {f : Supply} (he : s.events = .supply f :: es) :
    step s = .next { s with events := es, supply := f } := by
  simp only [step, fetch, he, fetchEvent]

/-- The codec's turn in a block that is not `BUSY`: the channel supplies its bytes, and nothing else happens. -/
theorem step_ready (hr : Ready s) (he : s.events = []) : step s = .next (supplyNext s) := by
  simp only [step, fetch, he, fetchCodec_ready hr]

theorem supplyNext_cycle {c : List Byte} {ds : List (List Byte)} (h : s.supply = .cycle c ds) :
    supplyNext s = { arrive c s with supply := nextSupply (.cycle c ds) } := by
  simp [supplyNext, suppliedBytes, h]

theorem supplyNext_free (h : s.supply = .free) :
    supplyNext s = { arrive (Config.freeArrival s.drawCount) s with drawCount := s.drawCount + 1 } := by
  have hkeep : nextSupply s.supply = (arrive (Config.freeArrival s.drawCount) s).supply := by
    rw [h, arrive_supply, h]; rfl
  rw [supplyNext, suppliedBytes, hkeep, h, if_pos rfl]

/-! ## Draws -/

/-- Each count up to what is available is the outcome of a draw (20_memory.md R62). -/
theorem chanRead_drawn {n k : Nat} {ds : List Nat} (hf : s.cfg.chanReadFull = false) (ht : s.tape = k :: ds)
    (hk : k ≤ min n (chanAvail s)) : chanRead n s = (s.rx.take k, { s with rx := s.rx.drop k, tape := ds }) := by
  have hmod : k % (min n (chanAvail s) + 1) = k := Nat.mod_eq_of_lt (Nat.lt_succ_of_le hk)
  simp [chanRead, hf, draw_tape ht, hmod, takeRx]

/-! ## Ports -/

/-- A command whose ports are out of their bounds is refused unless it is already in progress. -/
theorem exec_badPorts {i : Instr} (hc : i.isCommand = true) (hw : i.wf = false) (hn : ¬Executing i s) :
    exec i s = .next (refuseRequest s) := by
  obtain ⟨work, hx⟩ := exec_command hc
  rw [hx, hw, runCommand_badPorts _ _ hn]

end Sys2Proof.Machine

open Sys2Proof Sys2Proof.Machine

/-- Settles O25: a full read by its own law, the count of a drawn one by the tape's next choice. -/
theorem chanReadRemovesWhatItReturns : Obligations.ChanReadRemovesWhatItReturns := by
  intro s n _
  refine ⟨chanRead_full n, fun hf => ⟨?_, fun k hk => ⟨[k], ?_⟩⟩⟩
  · obtain ⟨k, tape, c, hk, -, h⟩ := chanRead_spec n s
    exact ⟨k, hk, tape, c, h⟩
  · rw [chanRead_drawn (s := { s with tape := [k] }) hf rfl hk]
    exact ⟨rfl, rfl⟩

/-- Settles O19: such a command is not well formed. -/
theorem oversizedPortsAreRefused : Obligations.OversizedPortsAreRefused := by
  intro s alg dev lreq buf n i hi hn
  have hbad : i.isCommand = true ∧ i.wf = false := by
    obtain ⟨rfl | rfl, hlen⟩ | ⟨rfl, hlen⟩ := hi
    · exact ⟨rfl, decide_eq_false (Nat.not_le.mpr hlen)⟩
    · exact ⟨rfl, decide_eq_false (Nat.not_le.mpr hlen)⟩
    · refine ⟨rfl, Bool.eq_false_iff.mpr fun hok => ?_⟩
      obtain ⟨hmax, hcount⟩ := chkPortsOk_iff.mp hok
      omega
  obtain ⟨hc, hw⟩ := hbad
  exact exec_badPorts hc hw hn

/-- Settles O56: an arrival by its input, the channel's own by the kind of its supply. -/
theorem bytesArriveOnlyWhileOpen : Obligations.BytesArriveOnlyWhileOpen := by
  intro s bs es
  refine ⟨step_arrive, fun f => step_supply, step_ready, fun d ds => supplyNext_cycle, fun h => ?_,
    fun h => ⟨_, supplyNext_free h⟩⟩
  have hkeep : nextSupply (.cycle bs []) = s.supply := h.symm
  rw [supplyNext_cycle h, hkeep]
  rfl
end

section
/-! SUPPORT. What a step does to the streams and to the frame buffer: `RX` loses bytes from its head only, `TX` only grows,
and `FB` stays canonical. -/

namespace Sys2Proof.Machine

variable {s t u : State} {i : Instr}

/-- From `s` to `t` the streams and `FB` stay as they are. -/
def SameMemory (s t : State) : Prop := t.rx = s.rx ∧ t.tx = s.tx ∧ t.fb = s.fb

/-- From `s` to `t` bytes leave `RX` from its head, none leaves or enters `TX`, and `FB` stays canonical. -/
structure ReadsOnly (s t : State) : Prop where
  rx : ∃ k, t.rx = s.rx.drop k
  tx : t.tx = s.tx
  fb : Memory.wf s.fb = true → Memory.wf t.fb = true

theorem SameMemory.readsOnly (h : SameMemory s t) : ReadsOnly s t := by
  obtain ⟨hrx, htx, hfb⟩ := h
  exact ⟨⟨0, hrx⟩, htx, fun hwf => by rwa [hfb]⟩

theorem ReadsOnly.trans (h : ReadsOnly s t) (h' : ReadsOnly t u) : ReadsOnly s u := by
  obtain ⟨k, hk⟩ := h.rx
  obtain ⟨l, hl⟩ := h'.rx
  exact ⟨⟨k + l, by rw [hl, hk, List.drop_drop]⟩, h'.tx.trans h.tx, fun hwf => h'.fb (h.fb hwf)⟩

/-! ## A receive's step -/

theorem HeaderOnly.sameMemory (h : HeaderOnly s t) : SameMemory s t := by
  rw [HeaderOnly] at h
  rw [h]
  exact ⟨rfl, rfl, rfl⟩

theorem sameMemory_processHeader (u : State) : SameMemory u (processHeader u) := by
  obtain ⟨v, ⟨c, -, h⟩ | ⟨k, h⟩, hv⟩ := processHeader_cases u <;> rw [h] <;> exact hv.sameMemory

theorem sameMemory_processLength (u : State) : SameMemory u (processLength u) := by
  obtain h | ⟨n, -, h⟩ := processLength_cases u <;> rw [h] <;> exact ⟨rfl, rfl, rfl⟩

theorem sameMemory_processBody (u : State) : SameMemory u (processBody u) := by
  obtain ⟨v, ⟨c, -, h⟩ | h, hv⟩ := processBody_cases u <;> rw [h] <;> exact hv.sameMemory

theorem sameMemory_processShort (u : State) : SameMemory u (processShort u) := by
  obtain ⟨v, ⟨c, -, h⟩ | h, hv⟩ := processShort_cases u <;> rw [h] <;> exact hv.sameMemory

theorem readsOnly_chanRead (n : Nat) (s : State) : ReadsOnly s (chanRead n s).2 := by
  obtain ⟨k, tape, c, -, -, h⟩ := chanRead_spec n s
  rw [h]
  exact ⟨⟨k, rfl⟩, rfl, id⟩

theorem readsOnly_fbAppend (bs : List Byte) (s : State) : ReadsOnly s (fbAppend bs s) :=
  ⟨⟨0, rfl⟩, rfl, Memory.wf_writeBytes⟩

theorem readsOnly_takeSentinel (s : State) : ReadsOnly s (takeSentinel s) :=
  ⟨⟨0, rfl⟩, rfl, Memory.wf_writeBytes⟩

theorem readsOnly_pollStep {process : State → State} (hp : ∀ u, SameMemory u (process u))
    (h : pollStep process s = .next t) : ReadsOnly s t := by
  have hread := (readsOnly_chanRead s.need s).trans (readsOnly_fbAppend (chanRead s.need s).1 _)
  obtain ⟨-, -, ⟨-, rfl⟩ | ⟨-, rfl⟩⟩ | ⟨-, -, rfl⟩ | ⟨-, -, rfl⟩ := pollStep_next h
  · exact ⟨hread.rx, hread.tx, hread.fb⟩
  · exact hread.trans (hp _).readsOnly
  · exact ⟨⟨0, rfl⟩, rfl, id⟩
  · exact ⟨⟨0, rfl⟩, rfl, id⟩

theorem readsOnly_scanStep (s : State) : ReadsOnly s (scanStep s) := by
  have hread := readsOnly_chanRead 1 s
  obtain h | h | h := scanStep_cases s <;> rw [h]
  · exact ⟨hread.rx, hread.tx, hread.fb⟩
  · exact hread.trans (readsOnly_takeSentinel _)
  · exact hread

theorem readsOnly_receiveStep (h : receiveStep s = .next t) : ReadsOnly s t := by
  unfold receiveStep at h
  split at h
  · cases h
  · cases h
    exact readsOnly_scanStep s
  · exact readsOnly_pollStep sameMemory_processHeader h
  · exact readsOnly_pollStep sameMemory_processLength h
  · exact readsOnly_pollStep sameMemory_processBody h
  · exact readsOnly_pollStep sameMemory_processShort h

/-! ## The step of a command in progress -/

/-- What the step of `i`, in progress in `s`, does to the streams and to `FB` where it leads to `t`: a receive and a close
alone take from `RX`, an encode on an open channel alone adds to `TX` (20_memory.md R62, R64, R65). -/
structure WorkMemory (i : Instr) (s t : State) : Prop where
  rx : ∃ k, t.rx = s.rx.drop k ∧ (k ≠ 0 → i = .decRecv ∨ i = .chanCloseCmd)
  tx : ∃ frame, t.tx = s.tx ++ frame ∧ (frame ≠ [] → s.chanOpen = true ∧ IsEncode i)
  fb : Memory.wf s.fb = true → Memory.wf t.fb = true

/-- A step that leaves both streams as they are. -/
theorem WorkMemory.of_streams (hrx : t.rx = s.rx) (htx : t.tx = s.tx)
    (hfb : Memory.wf s.fb = true → Memory.wf t.fb = true) : WorkMemory i s t :=
  ⟨⟨0, hrx, absurd rfl⟩, ⟨[], by rw [htx, List.append_nil], absurd rfl⟩, hfb⟩

theorem SameMemory.workMemory (h : SameMemory s t) : WorkMemory i s t := by
  obtain ⟨hrx, htx, hfb⟩ := h
  exact .of_streams hrx htx fun hwf => by rwa [hfb]

/-- A step of a receive or of a close. -/
theorem ReadsOnly.workMemory (h : ReadsOnly s t) (hi : i = .decRecv ∨ i = .chanCloseCmd) : WorkMemory i s t := by
  obtain ⟨k, hk⟩ := h.rx
  exact ⟨⟨k, hk, fun _ => hi⟩, ⟨[], by rw [h.tx, List.append_nil], absurd rfl⟩, h.fb⟩

theorem workMemory_encodeFrame (hi : IsEncode i) (k : Kind) (alg : Alg) (dev : Word) (body : List Byte) (s : State) :
    WorkMemory i s (encodeFrame k alg dev body s) := by
  unfold encodeFrame
  split
  · rename_i hopen
    exact ⟨⟨0, rfl, absurd rfl⟩, ⟨_, rfl, fun _ => ⟨hopen, hi⟩⟩, id⟩
  · exact .of_streams rfl rfl id

theorem sameMemory_openChannel (s : State) : SameMemory s (openChannel s) := by
  obtain ⟨tape, n, hd⟩ := draw_snd s
  unfold openChannel
  split
  · exact ⟨rfl, rfl, rfl⟩
  · rw [hd]
    exact ⟨rfl, rfl, rfl⟩

/-- A drawn `RX` is the old one, or what is left when all its bytes are removed (20_memory.md R65). -/
theorem rxAfterDraw_eq_drop (d : Nat) (rx : List Byte) : ∃ k, rxAfterDraw d rx = rx.drop k := by
  unfold rxAfterDraw
  split
  · exact ⟨rx.length, List.drop_length.symm⟩
  · exact ⟨0, rfl⟩

theorem readsOnly_closeChannel (s : State) : ReadsOnly s (closeChannel s) := by
  obtain ⟨tape, n, hd⟩ := draw_snd s
  unfold closeChannel
  split
  · rw [hd]
    exact ⟨rxAfterDraw_eq_drop _ _, rfl, id⟩
  · exact ⟨⟨0, rfl⟩, rfl, id⟩

/-- A wire byte has an effect only in its place. -/
theorem wireByte_next {w : DecState} {take : State → State} (h : wireByte w take s = .next t) : t = take s := by
  unfold wireByte at h
  split at h
  · cases h; rfl
  · cases h

/-- The rows of the opcode table, one by one: encodes, receive and close, and the rest, which leave the streams alone. -/
theorem exec_executing_memory (h : exec i s = .next t) (hi : Executing i s) : WorkMemory i s t := by
  cases i
  case encReq alg dev x pbuf =>
    cases (exec_encReq_executing hi).symm.trans h
    exact workMemory_encodeFrame ⟨alg, dev, x, pbuf, .inl rfl⟩ _ _ _ _ _
  case encRsp alg dev x pbuf =>
    cases (exec_encRsp_executing hi).symm.trans h
    exact workMemory_encodeFrame ⟨alg, dev, x, pbuf, .inr (.inl rfl)⟩ _ _ _ _ _
  case encSip alg dev x =>
    cases (exec_encSip_executing hi).symm.trans h
    exact workMemory_encodeFrame ⟨alg, dev, x, [], .inr (.inr (.inl rfl))⟩ _ _ _ _ _
  case encCep alg dev x =>
    cases (exec_encCep_executing hi).symm.trans h
    exact workMemory_encodeFrame ⟨alg, dev, x, [], .inr (.inr (.inr rfl))⟩ _ _ _ _ _
  case decRecv => exact (readsOnly_receiveStep ((exec_decRecv_executing hi).symm.trans h)).workMemory (.inl rfl)
  case chkCompute alg dbuf n =>
    cases (exec_chkCompute_executing hi).symm.trans h
    exact .of_streams rfl rfl id
  case chanOpenCmd =>
    cases (exec_chanOpenCmd_executing hi).symm.trans h
    exact (sameMemory_openChannel s).workMemory
  case chanCloseCmd =>
    cases (exec_chanCloseCmd_executing hi).symm.trans h
    exact (readsOnly_closeChannel s).workMemory (.inr rfl)
  case wireSentinel =>
    cases wireByte_next h
    exact .of_streams rfl rfl Memory.wf_writeBytes
  case wireKindRequest | wireKindResponse | wireKindInterrupt | wireKindCommError | wireEcaNone | wireEcaXor8 |
      wireEcaChecksum16 | wireEcaLrc16 | wireEcaFletcher16 | wireEcaCrc16 =>
    cases wireByte_next h
    exact .of_streams rfl rfl id
  all_goals
    cases h
    exact .of_streams rfl rfl id

/-! ## The step of the machine -/

theorem sameMemory_startOf (i : Instr) (s : State) : SameMemory s (startOf i s) := by
  unfold startOf
  split <;> exact ⟨rfl, rfl, rfl⟩

/-- A presented command does not touch the streams before its own steps. -/
theorem exec_ready_rx (hr : Ready s) (hs : (encode i).slot = .command) (h : exec i s = .next t) : t.rx = s.rx := by
  obtain ⟨-, -, rfl⟩ | rfl := exec_ready_next hr hs h
  · obtain ⟨hrx, -, -⟩ := sameMemory_startOf i (accept i s)
    exact hrx
  · rfl

/-- `bs` arrives in a step from `s`: if it is any byte, the channel is open, and `bs` is an arrival's or the channel's own
(20_memory.md R63; log entry 28). -/
def ArrivesIn (s : State) (bs : List Byte) : Prop :=
  bs ≠ [] → s.chanOpen = true ∧
    ((∃ es, s.events = .arrive bs :: es) ∨ (s.supply ≠ .quiet ∧ (supplyNext s).rx = s.rx ++ bs))

theorem arrivesIn_nil (s : State) : ArrivesIn s [] := absurd rfl

/-- What the channel supplies by itself. -/
theorem supplyNext_arrives (s : State) : ∃ bs, (supplyNext s).rx = s.rx ++ bs ∧ ArrivesIn s bs := by
  cases hopen : s.chanOpen with
  | false => exact ⟨[], by simp [hopen], arrivesIn_nil s⟩
  | true =>
    have hrx : (supplyNext s).rx = s.rx ++ suppliedBytes s := by simp [hopen]
    refine ⟨_, hrx, fun hne => ⟨hopen, .inr ⟨fun hquiet => hne ?_, hrx⟩⟩⟩
    rw [suppliedBytes, hquiet]

/-- The codec's turn comes after what the channel supplies by itself. -/
theorem CodecTurn.arrives (h : CodecTurn s u) : ∃ bs, (supplyNext u).rx = s.rx ++ bs ∧ ArrivesIn s bs := by
  obtain ⟨es, rfl⟩ := h.eq_events
  exact supplyNext_arrives s

/-- An arrival. -/
theorem arrive_arrives {bs : List Byte} {es : List Event} (he : s.events = .arrive bs :: es) :
    ∃ cs, (arrive bs s).rx = s.rx ++ cs ∧ ArrivesIn s cs := by
  cases hopen : s.chanOpen with
  | false => exact ⟨[], by simp [hopen], arrivesIn_nil s⟩
  | true => exact ⟨bs, by simp [hopen], fun _ => ⟨hopen, .inl ⟨es, he⟩⟩⟩

theorem writeRto_rx (v : Nat) (s : State) : (writeRto v s).rx = s.rx := by
  unfold writeRto
  split <;> rfl

/-- An input that is not the reset adds what arrives to `RX` and removes nothing. -/
theorem fetch_input_rx (h : fetch s = .input (.next t)) :
    (∃ bs, t.rx = s.rx ++ bs ∧ ArrivesIn s bs) ∨ ∃ es, s.events = .reset :: es ∧ ∃ k, t.rx = s.rx.drop k := by
  have kept : t.rx = s.rx → ∃ bs, t.rx = s.rx ++ bs ∧ ArrivesIn s bs := fun hrx =>
    ⟨[], by rw [hrx, List.append_nil], arrivesIn_nil s⟩
  obtain ⟨-, v, hv, rfl⟩ | ⟨-, w, p, es, -, rfl⟩ | ⟨v, es, -, rfl⟩ | ⟨r, n, es, -, rfl⟩ | ⟨bs, es, he, rfl⟩ |
    ⟨f, es, -, rfl⟩ | ⟨es, he, rfl⟩ | ⟨k, es, -, -, rfl⟩ := fetch_input h
  · exact .inl hv.arrives
  · exact .inl (kept rfl)
  · exact .inl (kept (writeRto_rx v _))
  · exact .inl (kept rfl)
  · exact .inl (arrive_arrives he)
  · exact .inl (kept rfl)
  · exact .inr ⟨es, he, rxAfterDraw_eq_drop _ _⟩
  · exact .inl (kept rfl)

end Sys2Proof.Machine

open Sys2Proof Sys2Proof.Machine

/-- Settles O42: only the decoder writes `FB`, and a write keeps the form; the reset empties it. -/
theorem stepKeepsTheFrameBufferCanonical : Obligations.StepKeepsTheFrameBufferCanonical := by
  intro s t hwf h
  cases step_cases h with
  | outside rx es reads f n ht => subst ht; exact hwf
  | refused es ht hreq => subst ht; exact hwf
  | rtoWritten v es he hr ht => subst ht; exact hwf
  | reset es he ht => subst ht; rfl
  | accepted i es hr hc hw ht =>
    subst ht
    exact (sameMemory_startOf i (accept i { s with events := es })).readsOnly.fb hwf
  | worked i es hi h => exact (exec_executing_memory h hi).fb hwf

/-- Settles O45, by the case of the step: only the step of a command in progress can add to `TX`. -/
theorem transmitStreamIsAppendOnly : Obligations.TransmitStreamIsAppendOnly := by
  intro s t h
  cases step_cases h with
  | outside rx es reads f n ht => subst ht; exact ⟨[], (List.append_nil _).symm, absurd rfl⟩
  | refused es ht hreq => subst ht; exact ⟨[], (List.append_nil _).symm, absurd rfl⟩
  | rtoWritten v es he hr ht => subst ht; exact ⟨[], (List.append_nil _).symm, absurd rfl⟩
  | reset es he ht => subst ht; exact ⟨[], (List.append_nil _).symm, absurd rfl⟩
  | accepted i es hr hc hw ht =>
    subst ht
    obtain ⟨-, htx, -⟩ := sameMemory_startOf i (accept i { s with events := es })
    exact ⟨[], htx.trans (List.append_nil _).symm, absurd rfl⟩
  | worked i es hi h =>
    obtain ⟨frame, htx, hframe⟩ := (exec_executing_memory h hi).tx
    refine ⟨frame, htx, fun hne => ?_⟩
    obtain ⟨hopen, alg, dev, x, pbuf, rfl | rfl | rfl | rfl⟩ := hframe hne
    · exact ⟨hopen, alg, dev, x, pbuf, .inl hi⟩
    · exact ⟨hopen, alg, dev, x, pbuf, .inr (.inl hi)⟩
    · exact ⟨hopen, alg, dev, x, pbuf, .inr (.inr (.inl hi))⟩
    · exact ⟨hopen, alg, dev, x, pbuf, .inr (.inr (.inr hi))⟩

/-- Settles O46: what arrives comes first, then the step of the command in progress takes from the head. -/
theorem receiveStreamLosesOnlyItsHead : Obligations.ReceiveStreamLosesOnlyItsHead := by
  intro s t h
  obtain ⟨i, u, hf, hx⟩ | hf := step_next h
  · obtain ⟨hp, v, hv, rfl⟩ | ⟨hb, w, p, es, -, rfl, rfl⟩ := fetch_run hf
    · have hi : Executing i (supplyNext v) := hv.phase.trans hp
      obtain ⟨bs, hrx, hbs⟩ := hv.arrives
      obtain ⟨k, ht, hk⟩ := (exec_executing_memory hx hi).rx
      refine ⟨bs, k, by rw [ht, hrx], hbs, fun hne => ?_⟩
      obtain rfl | rfl := hk hne
      · exact .inl hp
      · exact .inr (.inl hp)
    · have hrx := exec_ready_rx (s := { s with events := es }) hb (encode_decodeCommand_slot w p) hx
      exact ⟨[], 0, hrx.trans (List.append_nil _).symm, absurd rfl, absurd rfl⟩
  · obtain ⟨bs, hrx, hbs⟩ | ⟨es, he, k, hrx⟩ := fetch_input_rx hf
    · exact ⟨bs, 0, hrx, hbs, absurd rfl⟩
    · exact ⟨[], k, by rw [hrx, List.append_nil], absurd rfl, fun _ => .inr (.inr ⟨es, he⟩)⟩
end

section
/-! SUPPORT. The fields of a command word and its row: bit 7 first, then `ALG` 6 or 7, then `OP` (30_encoding.md R120,
R122; log entry 13); and what each wire byte reads as at its place (R92, R103). -/

namespace Sys2Proof

open Machine (toNat_append_eq_add)

variable {w : Byte} {p : Ports}

/-! ## Algorithms and their ordinals -/

theorem eq_algOrdinal_of_toNat_le {v : BitVec 3} (h : v.toNat ≤ 5) : ∃ a, v = algOrdinal a := by
  obtain rfl | rfl | rfl | rfl | rfl | rfl : v = 0 ∨ v = 1 ∨ v = 2 ∨ v = 3 ∨ v = 4 ∨ v = 5 := by bv_omega
  · exact ⟨.none, rfl⟩
  · exact ⟨.xor8, rfl⟩
  · exact ⟨.checksum16, rfl⟩
  · exact ⟨.lrc16, rfl⟩
  · exact ⟨.fletcher16, rfl⟩
  · exact ⟨.crc16, rfl⟩

/-! ## The fields of a word -/

theorem commandWord_toNat (op : BitVec 4) (alg : BitVec 3) :
    (commandWord op alg).toNat = 16 * alg.toNat + op.toNat := by
  rw [commandWord, toNat_append_eq_add, toNat_append_eq_add, BitVec.toNat_ofNat]
  omega

/-- The `OP` and the `ALG` of a word, as R120 numbers them. -/
theorem commandWord_toNat_fields (op : BitVec 4) (alg : BitVec 3) :
    (commandWord op alg).toNat % 16 = op.toNat ∧ (commandWord op alg).toNat / 16 % 8 = alg.toNat := by
  rw [commandWord_toNat]
  omega

/-- A word is its bits 7:4 followed by its `OP`. -/
theorem extractHi_append_op (op : BitVec 4) (alg : BitVec 3) :
    (commandWord op alg).extractLsb' 4 4 ++ op = commandWord op alg := by
  revert op alg
  decide

/-- A word whose bit 7 is 0 is made of its `OP` and its `ALG`. -/
theorem eq_commandWord (h : w.toNat < 128) :
    w = commandWord (BitVec.ofNat 4 (w.toNat % 16)) (BitVec.ofNat 3 (w.toNat / 16 % 8)) := by
  apply BitVec.eq_of_toNat_eq
  rw [commandWord_toNat, BitVec.toNat_ofNat, BitVec.toNat_ofNat]
  omega

/-- The rows of the command table by their first bits: bit 7, `ALG` 6 or 7, or an `OP` and an algorithm. -/
theorem word_cases (w : Byte) : (∃ low : BitVec 7, w = 1#1 ++ low) ∨ (∃ low : BitVec 5, w = 3#3 ++ low) ∨
    ∃ op a, w = commandWord op (algOrdinal a) := by
  by_cases h7 : w.toNat < 128
  · by_cases halg : w.toNat / 16 % 8 ≤ 5
    · obtain ⟨a, ha⟩ := eq_algOrdinal_of_toNat_le (v := BitVec.ofNat 3 (w.toNat / 16 % 8)) (by simpa using halg)
      exact .inr (.inr ⟨_, a, ha ▸ eq_commandWord h7⟩)
    · refine .inr (.inl ⟨w.setWidth 5, BitVec.eq_of_toNat_eq ?_⟩)
      rw [toNat_append_eq_add, BitVec.toNat_setWidth, BitVec.toNat_ofNat]
      omega
  · refine .inl ⟨w.setWidth 7, BitVec.eq_of_toNat_eq ?_⟩
    rw [toNat_append_eq_add, BitVec.toNat_setWidth, BitVec.toNat_ofNat]
    omega

/-! ## Reserved words -/

/-- Bit 7 comes before `ALG` and `OP` (log entry 13). -/
theorem decodeCommand_bit7 (low : BitVec 7) (p : Ports) : decodeCommand (1#1 ++ low) p = .reservedBit7 low := by
  have hfields : ∀ low : BitVec 7, (1#1 ++ low).getLsbD 7 = true ∧ (1#1 ++ low).extractLsb' 0 7 = low := by decide
  obtain ⟨h7, hlow⟩ := hfields low
  rw [decodeCommand, if_pos h7, hlow]

/-- `ALG` 6 or 7 comes before `OP` (log entry 13). -/
theorem decodeCommand_alg67 (low : BitVec 5) (p : Ports) : decodeCommand (3#3 ++ low) p = .reservedAlg67 low := by
  have hfields : ∀ low : BitVec 5, (3#3 ++ low).getLsbD 7 = false ∧
    algOfOrdinal ((3#3 ++ low).extractLsb' 4 3) = none ∧ (3#3 ++ low).extractLsb' 0 5 = low := by decide
  obtain ⟨h7, halg, hlow⟩ := hfields low
  simp only [decodeCommand, h7, halg, hlow, Bool.false_eq_true, if_false]

/-- Bits 7:4 of a word that only its `OP` makes reserved name an algorithm. -/
theorem eq_algOrdinal_of_reservedHiOk {hi : BitVec 4} (h : reservedHiOk hi = true) : ∃ a, hi = 0#1 ++ algOrdinal a := by
  have hlt : hi.toNat < 6 := of_decide_eq_true h
  obtain ⟨a, ha⟩ := eq_algOrdinal_of_toNat_le (v := hi.setWidth 3) (by rw [BitVec.toNat_setWidth]; omega)
  refine ⟨a, BitVec.eq_of_toNat_eq ?_⟩
  rw [← ha, toNat_append_eq_add, BitVec.toNat_setWidth, BitVec.toNat_ofNat]
  omega

/-- The `ALG` of a word that only its `ALG` makes reserved names an algorithm other than None. -/
theorem eq_algOrdinal_of_reservedAlgOk {alg : BitVec 3} (h : reservedAlgOk alg = true) :
    ∃ a, a ≠ .none ∧ alg = algOrdinal a := by
  obtain ⟨hpos, hlt⟩ := (Bool.and_eq_true _ _).mp h
  obtain ⟨a, rfl⟩ := eq_algOrdinal_of_toNat_le (Nat.le_of_lt_succ (of_decide_eq_true hlt))
  exact ⟨a, fun hnone => absurd (of_decide_eq_true hpos) (by simp [hnone, algOrdinal]), rfl⟩

/-! ## Decoding what was encoded, and encoding what was decoded -/

/-- Each row of the table, with its free bits and operands, reads back (30_encoding.md R92, R93, R120, R122). -/
theorem decode_encode {i : Instr} (h : i.wf = true) :
    decode (encode i).slot (encode i).byte (encode i).ports = .ok i := by
  cases i
  case encReq | encRsp | encSip | encCep | chkCompute => simp only [encode, decode, decodeCommand_commandWord]
  case reservedBit7 low => exact congrArg Except.ok (decodeCommand_bit7 low _)
  case reservedAlg67 low => exact congrArg Except.ok (decodeCommand_alg67 low _)
  case reservedOp0 | reservedOp9 | reservedOpA | reservedOpB | reservedOpC | reservedOpD | reservedOpE | reservedOpF =>
    obtain ⟨a, rfl⟩ := eq_algOrdinal_of_reservedHiOk h
    cases a <;> rfl
  case reservedDecRecvAlg | reservedChanOpenAlg | reservedChanCloseAlg =>
    obtain ⟨a, hne, rfl⟩ := eq_algOrdinal_of_reservedAlgOk h
    cases a
    case none => exact absurd rfl hne
    all_goals rfl
  all_goals rfl

/-- A word with an `OP` and an algorithm, by the branches of the decoder: the commands that take an algorithm, those that
take none and their reserved rows, and the rows that only their `OP` makes reserved. -/
theorem encode_decodeCommand_commandWord (op : BitVec 4) (a : Alg) (p : Ports) :
    (encode (decodeCommand (commandWord op (algOrdinal a)) p)).byte = commandWord op (algOrdinal a) := by
  obtain ⟨h7, halg, hop⟩ := commandWord_fields op (algOrdinal a)
  have hhi := extractHi_append_op op (algOrdinal a)
  have hnum {n : Nat} (h : op.toNat = n) : op = BitVec.ofNat 4 n := by rw [← h, BitVec.ofNat_toNat, BitVec.setWidth_eq]
  simp only [decodeCommand, h7, halg, hop, algOfOrdinal_algOrdinal, Bool.false_eq_true, if_false]
  split
  case h_2 h | h_3 h | h_4 h | h_5 h | h_7 h => cases hnum h; rfl
  case h_6 h | h_8 h | h_9 h =>
    cases hnum h
    split
    · rename_i hzero
      rw [hzero]
      rfl
    · rfl
  case h_1 h | h_10 h | h_11 h | h_12 h | h_13 h | h_14 h | h_15 h => cases hnum h; exact hhi
  case h_16 =>
    have hlt := op.isLt
    have h : op.toNat = 15 := by grind
    cases hnum h
    exact hhi

/-- No bit of a command word is dropped. -/
theorem encode_decodeCommand_byte (w : Byte) (p : Ports) : (encode (decodeCommand w p)).byte = w := by
  obtain ⟨low, rfl⟩ | ⟨low, rfl⟩ | ⟨op, a, rfl⟩ := word_cases w
  · rw [decodeCommand_bit7, encode]
  · rw [decodeCommand_alg67, encode]
  · exact encode_decodeCommand_commandWord op a p

/-! ## Wire bytes at their places -/

theorem kindOfChar_eq_some_iff {c : Byte} {k : Kind} : kindOfChar c = some k ↔ c = kindChar k :=
  ⟨eq_kindChar_of_kindOfChar, fun h => h ▸ kindOfChar_kindChar k⟩

theorem wireKind_injective : Function.Injective wireKind := by
  intro k l
  cases k <;> cases l <;> simp [wireKind]

/-- A byte at position 1 of a frame is the kind `k` exactly when it is its character (30_encoding.md R92). -/
theorem decode_frameByte1_ok_iff {c : Byte} {k : Kind} :
    decode .frameByte1 c p = .ok (wireKind k) ↔ c = kindChar k := by
  rw [← kindOfChar_eq_some_iff, decode]
  cases kindOfChar c with
  | none => simp
  | some l => simp [wireKind_injective.eq_iff]

/-- A byte at position 1 of a frame that is no kind's character is rejected (30_encoding.md R108 item 1). -/
theorem decode_frameByte1_error_iff {c : Byte} :
    decode .frameByte1 c p = .error .badKind ↔ ∀ k, c ≠ kindChar k := by
  rw [decode]
  cases hk : kindOfChar c with
  | none => simp [← kindOfChar_eq_some_iff, hk]
  | some l => simp [← kindOfChar_eq_some_iff, hk]

end Sys2Proof

open Sys2Proof Sys2Proof.Machine

/-- Settles O1, row by row of the opcode table. -/
theorem decodeOfEncodeIsTheInstruction : Obligations.DecodeOfEncodeIsTheInstruction := fun _ => decode_encode

/-- Settles O2: a word is under the row of bit 7, under that of `ALG` 6 or 7, or made of an `OP` and an algorithm. -/
theorem encodeOfDecodeIsTheWord : Obligations.EncodeOfDecodeIsTheWord := fun w p =>
  ⟨encode_decodeCommand_slot w p, encode_decodeCommand_byte w p⟩

/-- Settles O4: each of the nine words by evaluation. -/
theorem wordsDecodeToTheirInstructions : Obligations.WordsDecodeToTheirInstructions := fun _ =>
  ⟨rfl, rfl, rfl, rfl, rfl, rfl, rfl, rfl, rfl⟩

/-- Settles O5: in the range the byte less 0x30 is an ordinal, and outside it no algorithm is read. -/
theorem ecaDigitsAreExactlyZeroToFive : Obligations.EcaDigitsAreExactlyZeroToFive := by
  intro c p
  refine ⟨fun hc => ?_, fun hc => by simp only [decode, ecaOfChar, if_neg hc]⟩
  have hv : (BitVec.ofNat 3 (c.toNat - 0x30)).toNat = c.toNat - 0x30 := by
    rw [BitVec.toNat_ofNat]
    omega
  obtain ⟨a, ha⟩ := eq_algOrdinal_of_toNat_le (v := BitVec.ofNat 3 (c.toNat - 0x30)) (by omega)
  refine ⟨a, ?_, ha ▸ hv⟩
  simp only [decode, ecaOfChar, if_pos hc, ha, algOfOrdinal_algOrdinal]

/-- Settles O6, kind by kind. -/
theorem kindCharactersAreExactlyFour : Obligations.KindCharactersAreExactlyFour := by
  intro c p
  refine ⟨decode_frameByte1_ok_iff (k := .request), decode_frameByte1_ok_iff (k := .response),
    decode_frameByte1_ok_iff (k := .interrupt), decode_frameByte1_ok_iff (k := .commError),
    decode_frameByte1_error_iff.trans ⟨fun h => ⟨h .request, h .response, h .interrupt, h .commError⟩, ?_⟩⟩
  rintro ⟨hreq, hrsp, hint, herr⟩ (_ | _ | _ | _)
  · exact hreq
  · exact hrsp
  · exact hint
  · exact herr
end

section
/-! SUPPORT. Which words and ports make a command that is accepted (30_encoding.md R122, 20_memory.md R75, R76). -/

namespace Sys2Proof.Machine

variable {s : State} {w : Byte} {p : Ports} {i : Instr}

/-- Bit 7 is 0, `OP` is that of a command, and `ALG` is one that the command has (30_encoding.md R122). -/
def LegalWord (w : Byte) : Prop :=
  w.toNat < 128 ∧ ((w.toNat % 16 ∈ [1, 2, 3, 4, 6] ∧ w.toNat / 16 % 8 ≤ 5) ∨
    (w.toNat % 16 ∈ [5, 7, 8] ∧ w.toNat / 16 % 8 = 0))

/-- The buffers that the operation `op` names are in their bounds (20_memory.md R75, R76). -/
def PortsInBounds (op : Nat) (p : Ports) : Prop :=
  (op ∈ [1, 2] → p.pbuf.length ≤ 4096) ∧ (op = 6 → p.dbuf.length ≤ 4110 ∧ p.nIn ≤ p.dbuf.length)

/-- The table of the eight commands: the words that stand for one, and the command each stands for (30_encoding.md
R120, R122). -/
inductive CommandCase (p : Ports) : Byte → Instr → Prop where
  | encReq (a : Alg) : CommandCase p (commandWord 0x1 (algOrdinal a)) (.encReq a p.devIn p.lreqIn p.pbuf)
  | encRsp (a : Alg) : CommandCase p (commandWord 0x2 (algOrdinal a)) (.encRsp a p.devIn p.lreqIn p.pbuf)
  | encSip (a : Alg) : CommandCase p (commandWord 0x3 (algOrdinal a)) (.encSip a p.devIn p.codeIn)
  | encCep (a : Alg) : CommandCase p (commandWord 0x4 (algOrdinal a)) (.encCep a p.devIn p.codeIn)
  | decRecv : CommandCase p (commandWord 0x5 0) .decRecv
  | chkCompute (a : Alg) : CommandCase p (commandWord 0x6 (algOrdinal a)) (.chkCompute a p.dbuf p.nIn)
  | chanOpenCmd : CommandCase p (commandWord 0x7 0) .chanOpenCmd
  | chanCloseCmd : CommandCase p (commandWord 0x8 0) .chanCloseCmd

/-- A word of the table decodes to its command. -/
theorem CommandCase.decodeCommand_eq (h : CommandCase p w i) : decodeCommand w p = i := by
  cases h with
  | decRecv | chanOpenCmd | chanCloseCmd => rfl
  | encReq a | encRsp a | encSip a | encCep a | chkCompute a => simp only [decodeCommand_commandWord]

/-- A command is encoded with a word of the table. -/
theorem commandCase_encode (p : Ports) (h : i.isCommand = true) : ∃ j, CommandCase p (encode i).byte j := by
  cases i
  case encReq a _ _ _ => exact ⟨_, .encReq a⟩
  case encRsp a _ _ _ => exact ⟨_, .encRsp a⟩
  case encSip a _ _ => exact ⟨_, .encSip a⟩
  case encCep a _ _ => exact ⟨_, .encCep a⟩
  case decRecv => exact ⟨_, .decRecv⟩
  case chkCompute a _ _ => exact ⟨_, .chkCompute a⟩
  case chanOpenCmd => exact ⟨_, .chanOpenCmd⟩
  case chanCloseCmd => exact ⟨_, .chanCloseCmd⟩
  all_goals cases h

/-- A word that decodes to a command is in the table: it is the word that the command is encoded with. -/
theorem commandCase_of_isCommand (h : (decodeCommand w p).isCommand = true) : CommandCase p w (decodeCommand w p) := by
  obtain ⟨j, hj⟩ := commandCase_encode p h
  rw [encode_decodeCommand_byte] at hj
  rwa [hj.decodeCommand_eq]

theorem CommandCase.isCommand (h : CommandCase p w i) : i.isCommand = true := by cases h <;> rfl

theorem commandCase_of_legalWord (h : LegalWord w) : ∃ i, CommandCase p w i := by
  obtain ⟨h7, ⟨hop, halg⟩ | ⟨hop, halg⟩⟩ := h <;> rw [eq_commandWord h7]
  · obtain ⟨a, ha⟩ := eq_algOrdinal_of_toNat_le (v := BitVec.ofNat 3 (w.toNat / 16 % 8)) (by simpa using halg)
    rw [ha]
    simp only [List.mem_cons, List.not_mem_nil, or_false] at hop
    obtain h | h | h | h | h := hop <;> rw [h]
    · exact ⟨_, .encReq a⟩
    · exact ⟨_, .encRsp a⟩
    · exact ⟨_, .encSip a⟩
    · exact ⟨_, .encCep a⟩
    · exact ⟨_, .chkCompute a⟩
  · rw [halg]
    simp only [List.mem_cons, List.not_mem_nil, or_false] at hop
    obtain h | h | h := hop <;> rw [h]
    · exact ⟨_, .decRecv⟩
    · exact ⟨_, .chanOpenCmd⟩
    · exact ⟨_, .chanCloseCmd⟩

theorem CommandCase.legalWord (h : CommandCase p w i) : LegalWord w := by
  cases h with
  | decRecv | chanOpenCmd | chanCloseCmd => simp [LegalWord, commandWord]
  | encReq a | encRsp a | encSip a | encCep a | chkCompute a => cases a <;> simp [LegalWord, commandWord, algOrdinal]

/-- The command of a word is well formed exactly when the ports it names are in their bounds. -/
theorem CommandCase.wf_iff (h : CommandCase p w i) : i.wf = true ↔ PortsInBounds (w.toNat % 16) p := by
  cases h with
  | decRecv | chanOpenCmd | chanCloseCmd => simp [PortsInBounds, commandWord_toNat_fields, Instr.wf]
  | encSip a | encCep a => simp [PortsInBounds, commandWord_toNat_fields, Instr.wf]
  | encReq a | encRsp a => exact pbufOk_iff.trans (by simp [PortsInBounds, commandWord_toNat_fields])
  | chkCompute a => exact chkPortsOk_iff.trans (by simp [PortsInBounds, commandWord_toNat_fields])

/-- `OP` of a presented word is its bits 3:0 (30_encoding.md R120). -/
theorem opcode_decodeCommand_toNat (w : Byte) (p : Ports) : (opcode (decodeCommand w p)).toNat = w.toNat % 16 := by
  rw [opcode, encode_decodeCommand_byte]
  simp [BitVec.extractLsb'_toNat]

/-- What a command's own rule adds to its accept step leaves `STATUS` and the refusal mark alone. -/
theorem startOf_status (i : Instr) (s : State) : (startOf i s).phase = s.phase ∧ (startOf i s).op = s.op ∧
    (startOf i s).refusalMark = s.refusalMark := by
  unfold startOf
  split <;> exact ⟨rfl, rfl, rfl⟩

end Sys2Proof.Machine

open Sys2Proof Sys2Proof.Machine

/-- Settles O3: the legal words are the commands', and a command is well formed exactly when its ports are in bounds. -/
theorem presentedCommandIsAcceptedOrRefused : Obligations.PresentedCommandIsAcceptedOrRefused := by
  intro s w p es he op alg legal ports
  refine ⟨fun hlegal hports hr => ?_, fun hnot => ?_⟩
  · obtain ⟨i, hi⟩ := commandCase_of_legalWord (p := p) hlegal
    obtain rfl := hi.decodeCommand_eq
    have hx := exec_accepts (s := { s with events := es }) hi.isCommand (hi.wf_iff.mpr hports) hr
    obtain ⟨hphase, hop, hmark⟩ := startOf_status (decodeCommand w p) (accept _ { s with events := es })
    exact ⟨_, (step_command hr he).trans hx, hphase, hop ▸ opcode_decodeCommand_toNat w p, hmark⟩
  · by_cases hr : Ready s
    · rw [step_command hr he]
      cases hc : (decodeCommand w p).isCommand with
      | false => exact exec_reserved hc (encode_decodeCommand_slot w p) _
      | true =>
        have hi := commandCase_of_isCommand hc
        have hbad : (decodeCommand w p).wf = false :=
          Bool.eq_false_iff.mpr fun hw => hnot ⟨hi.legalWord, hi.wf_iff.mp hw, hr⟩
        exact exec_badPorts hc hbad (not_executing_of_ready hr)
    · exact step_command_busy he hr

/-- Settles O24: each reserved row is a word of the command slot and no command. -/
theorem reservedWordsAreRefused : Obligations.ReservedWordsAreRefused := by
  intro s hi low7 low5 alg refused
  and_intros <;> exact exec_reserved rfl rfl s
end

section
/-! SUPPORT. Rendered digits, what parses, and what fits (30_encoding.md R100 to R102, R105). -/

namespace Sys2Proof.Machine

variable {lowerOk : Bool} {s t : List Byte} {c : Byte} {v w : Nat}

/-- An uppercase hexadecimal digit (30_encoding.md R100). -/
def UpperDigit (c : Byte) : Prop := (0x30 ≤ c.toNat ∧ c.toNat ≤ 0x39) ∨ (0x41 ≤ c.toNat ∧ c.toNat ≤ 0x46)

theorem upperDigit_hexDigit {d : Nat} (h : d < 16) : UpperDigit (hexDigit d) := by
  unfold UpperDigit hexDigit
  split
  · left
    rw [BitVec.toNat_ofNat]
    omega
  · right
    rw [BitVec.toNat_ofNat]
    omega

theorem upperDigit_of_mem_hexN {n : Nat} (h : c ∈ hexN n v) : UpperDigit c := by
  induction n with
  | zero => cases h
  | succ n ih =>
    rw [hexN] at h
    cases h with
    | head => exact upperDigit_hexDigit (Nat.mod_lt _ (by decide))
    | tail _ h => exact ih h

/-! ## Digits -/

theorem hexValue_decimal (h : 0x30 ≤ c.toNat ∧ c.toNat ≤ 0x39) : hexValue lowerOk c = some (c.toNat - 0x30) := if_pos h

theorem hexValue_upper (h : 0x41 ≤ c.toNat ∧ c.toNat ≤ 0x46) : hexValue lowerOk c = some (c.toNat - 0x41 + 10) := by
  rw [hexValue, if_neg (by omega), if_pos h]

theorem hexValue_lower (hl : lowerOk = true) (h : 0x61 ≤ c.toNat ∧ c.toNat ≤ 0x66) :
    hexValue lowerOk c = some (c.toNat - 0x61 + 10) := by
  rw [hexValue, if_neg (by omega), if_neg (by omega), if_pos ⟨hl, h⟩]

theorem hexValue_eq_none_iff : hexValue lowerOk c = none ↔ ¬((0x30 ≤ c.toNat ∧ c.toNat ≤ 0x39) ∨
    (0x41 ≤ c.toNat ∧ c.toNat ≤ 0x46) ∨ (lowerOk = true ∧ 0x61 ≤ c.toNat ∧ c.toNat ≤ 0x66)) := by
  unfold hexValue
  split_ifs <;> simp_all

/-! ## Strings -/

theorem parseHexFrom_cons_some {d : Nat} (hc : hexValue lowerOk c = some d) :
    parseHexFrom lowerOk v (c :: s) = parseHexFrom lowerOk (16 * v + d) s := by
  simp only [parseHexFrom, hc]

theorem parseHexFrom_cons_none (hc : hexValue lowerOk c = none) : parseHexFrom lowerOk v (c :: s) = none := by
  simp only [parseHexFrom, hc]

/-- Parsing a string and then another goes on with the value of the first (30_encoding.md R102). -/
theorem parseHexFrom_append (h : parseHexFrom lowerOk v s = some w) :
    parseHexFrom lowerOk v (s ++ t) = parseHexFrom lowerOk w t := by
  induction s generalizing v with
  | nil => cases h; rfl
  | cons c s ih =>
    rw [List.cons_append]
    cases hc : hexValue lowerOk c with
    | none =>
      rw [parseHexFrom_cons_none hc] at h
      cases h
    | some d =>
      rw [parseHexFrom_cons_some hc] at h ⊢
      exact ih h

/-- One more digit (30_encoding.md R102). -/
theorem parseHex_append_digit {d : Nat} (hs : parseHex lowerOk s = some v) (hc : hexValue lowerOk c = some d) :
    parseHex lowerOk (s ++ [c]) = some (16 * v + d) :=
  (parseHexFrom_append hs).trans (parseHexFrom_cons_some hc)

/-- A string fails to parse exactly where one of its characters is no digit (30_encoding.md R102). -/
theorem parseHexFrom_eq_none_iff : parseHexFrom lowerOk v s = none ↔ ∃ d ∈ s, hexValue lowerOk d = none := by
  induction s generalizing v with
  | nil => simp [parseHexFrom]
  | cons c s ih =>
    cases hc : hexValue lowerOk c with
    | none => simp [parseHexFrom_cons_none hc, hc]
    | some d => simp [parseHexFrom_cons_some hc, hc, ih]

/-! ## Fitting -/

theorem fit_of_lt {o : FieldOverflow} {n : Nat} (h : v < 2 ^ n) : fit o n v = v := by
  cases o with
  | truncate => exact Nat.mod_eq_of_lt h
  | saturate => exact Nat.min_eq_left (Nat.le_sub_one_of_lt h)

theorem fit_saturate_of_le {n : Nat} (h : 2 ^ n ≤ v) : fit .saturate n v = 2 ^ n - 1 :=
  Nat.min_eq_right ((Nat.sub_le _ 1).trans h)

end Sys2Proof.Machine

open Sys2Proof Sys2Proof.Machine

/-- Settles O7: each rendered digit is an uppercase one, and the digits parse back to the value. -/
theorem hexFieldsParseBack : Obligations.HexFieldsParseBack := fun lowerOk n v hv =>
  ⟨length_hexN n v, fun _ => upperDigit_of_mem_hexN, parseHexFrom_zero_hexN lowerOk hv⟩

/-- Settles O8, from the ranges of the digits and the loop of the parse. -/
theorem parseHexReadsMostSignificantDigitFirst : Obligations.ParseHexReadsMostSignificantDigitFirst := fun _ _ _ =>
  ⟨hexValue_decimal, hexValue_upper, hexValue_lower, hexValue_eq_none_iff, rfl, parseHexFrom_eq_none_iff,
    fun _ _ => parseHex_append_digit, fun _ => parseHex_lt⟩

/-- Settles O9: the laws of `fit` at the widths 12 and 8. -/
theorem fittedValuesFitTheirFields : Obligations.FittedValuesFitTheirFields := fun o v lreq pbuf =>
  ⟨fit_lt o 12 v, fit_lt o 8 v, fit_of_lt (n := 12), fit_of_lt (n := 8), rfl, fit_saturate_of_le (n := 12), rfl,
    fit_saturate_of_le (n := 8), Nat.le_of_lt_succ (effectiveLength_lt o lreq pbuf), effectiveLength_le o lreq pbuf⟩
end

section
/-! SUPPORT. The wire bytes in their place and out of it, and the decoder's steps that take them (30_encoding.md R91 to
R93, 42_decoder.md R230, R233, R235). -/

namespace Sys2Proof.Machine

variable {s : State} {k : Kind} {a : Alg}

/-! ## Wire bytes -/

/-- A wire byte in its place. -/
theorem wireByte_at {w : DecState} {take : State → State} (h : s.st = w) : wireByte w take s = .next (take s) :=
  if_pos h

/-- A wire byte elsewhere is no instruction (log entry 12). -/
theorem wireByte_elsewhere {w : DecState} {take : State → State} (h : s.st ≠ w) :
    wireByte w take s = .refused .wireByteOutOfPlace := if_neg h

/-- The meaning of the kind characters. -/
theorem exec_wireKind (k : Kind) (s : State) : exec (wireKind k) s = wireByte .waitHdr (takeKind k) s := by
  cases k <;> rfl

/-- The meaning of the ECA digits. -/
theorem exec_wireEca (a : Alg) (s : State) : exec (wireEca a) s = wireByte .waitHdr (takeEca a) s := by
  cases a <;> rfl

theorem exec_wireKind_at (k : Kind) (h : s.st = .waitHdr) : exec (wireKind k) s = .next (takeKind k s) :=
  (exec_wireKind k s).trans (wireByte_at h)

theorem exec_wireEca_at (a : Alg) (h : s.st = .waitHdr) : exec (wireEca a) s = .next (takeEca a s) :=
  (exec_wireEca a s).trans (wireByte_at h)

/-- Taking the sentinel writes `FB[0]` and no other byte (42_decoder.md R230). -/
theorem fbByte_takeSentinel (hwf : Memory.wf s.fb = true) (c : Nat) :
    fbByte c (takeSentinel s) = if c = 0 then sentinelByte else fbByte c s :=
  Memory.read_write hwf

/-! ## The decoder's steps -/

/-- A byte of what `MemWrite` wrote. -/
theorem Memory.read_writeBytes_inside {m : Memory} {j : Nat} {b : Byte} {bs : List Byte} (n : Nat)
    (h : Memory.wf m = true) (hj : bs[j]? = some b) : Memory.read (Memory.writeBytes m n bs) (n + j) = b := by
  rw [Memory.read_writeBytes h, if_pos (Nat.le_add_right n j), Nat.add_sub_cancel_left, hj, Option.getD_some]

@[simp] theorem chanRead_st (n : Nat) (s : State) : (chanRead n s).2.st = s.st := by
  obtain ⟨rx, tape, c, h⟩ := chanRead_snd n s
  rw [h]

/-- A scan that reads the sentinel takes it. -/
theorem scanStep_sentinel {bs : List Byte} (h : (chanRead 1 s).1 = 0x21 :: bs) :
    scanStep s = takeSentinel (chanRead 1 s).2 := by
  rw [scanStep, h]
  rfl

/-- A header with the character of `k`, the digit of `a` and the device id `v` takes the digit and then the kind
(42_decoder.md R233, R235). -/
theorem processHeader_accepts {v : Nat} (hk : fbByte 1 s = kindChar k) (ha : fbByte 2 s = ecaChar a)
    (hv : parseHex s.cfg.hexLowerOk (fbBytes 3 3 s) = some v) :
    processHeader s = takeKind k { takeEca a { s with hKind := kindChar k } with hDev := BitVec.ofNat 12 v } := by
  simp only [fbByte, fbBytes] at hk ha hv
  simp only [processHeader, fbByte, fbBytes, takeEca, hk, ha, hv, ecaOfChar_ecaChar, kindOfChar_kindChar]

/-- The state of a header wait once it has read `header` and left `rest` (42_decoder.md R225). -/
def headerRead (header rest : List Byte) (s : State) : State :=
  { s with rx := rest, fb := Memory.writeBytes s.fb 1 header, fbn := 6 }

/-- A header wait that finds its five bytes reads and processes them. -/
theorem receiveStep_header {header rest : List Byte} (hst : s.st = .waitHdr) (hfbn : s.fbn = 1) (hneed : s.need = 5)
    (ho : s.chanOpen = true) (hf : s.cfg.chanReadFull = true) (hrx : s.rx = header ++ rest) (hlen : header.length = 5) :
    receiveStep s = .next (processHeader (headerRead header rest s)) := by
  have htake : s.rx.take s.need = header := by rw [hrx, hneed, List.take_left' hlen]
  have hdrop : s.rx.drop s.need = rest := by rw [hrx, hneed, List.drop_left' hlen]
  have henough : s.need ≤ s.rx.length := by simp [hneed, hrx, hlen]
  have hfit : s.fbn + s.need ≤ Config.frameMax := by simp [hfbn, hneed, Config.frameMax]
  have happend : fbAppend header { s with rx := rest } = headerRead header rest s := by
    simp only [fbAppend, headerRead, hfbn, hlen]
  have hpoll : receiveStep s = pollStep processHeader s := by rw [receiveStep, hst]
  rw [hpoll, pollStep_full hf ho henough hfit, htake, hdrop, happend]

/-- A header of legal fields, once read (42_decoder.md R233, R235). -/
theorem processHeader_headerRead {d1 d2 d3 : Byte} {v : Nat} (rest : List Byte) (hwf : Memory.wf s.fb = true)
    (hv : parseHex s.cfg.hexLowerOk [d1, d2, d3] = some v) :
    let u := headerRead [kindChar k, ecaChar a, d1, d2, d3] rest s
    processHeader u = takeKind k { takeEca a { u with hKind := kindChar k } with hDev := BitVec.ofNat 12 v } := by
  refine processHeader_accepts (Memory.read_writeBytes_inside (j := 0) 1 hwf rfl)
    (Memory.read_writeBytes_inside (j := 1) 1 hwf rfl) (hv ▸ congrArg _ ?_)
  exact Memory.readBytes_writeBytes_inside (a := 1) (k := 2) hwf (Nat.le_refl _)

end Sys2Proof.Machine

open Sys2Proof Sys2Proof.Machine

/-- Settles O29: the scan takes the sentinel, and an accepted header its digit and its character, each in its place. -/
theorem decoderRunsTheWireBytes : Obligations.DecoderRunsTheWireBytes := by
  refine ⟨fun s bs hx hst hread => ?_, fun s a k d1 d2 d3 v rest hx hst hfbn hneed hwf ho hf hrx hv => ?_⟩
  · have hu : (chanRead 1 s).2.st = .scan := (chanRead_st 1 s).trans hst
    calc exec .decRecv s = .next (scanStep s) := by rw [exec_decRecv_executing hx, receiveStep, hst]
      _ = .next (takeSentinel (chanRead 1 s).2) := by rw [scanStep_sentinel hread]
      _ = exec .wireSentinel (chanRead 1 s).2 := (wireByte_at hu).symm
  · refine ⟨_, exec_wireEca_at a hst, ?_⟩
    have hread := receiveStep_header (header := [kindChar k, ecaChar a, d1, d2, d3]) hst hfbn hneed ho hf hrx rfl
    rw [exec_decRecv_executing hx, hread, processHeader_headerRead rest hwf hv, exec_wireKind, wireByte_at]
    · rfl
    · exact hst

/-- Settles O36: taking the sentinel writes one byte of `FB`. -/
theorem wireSentinelStartsTheHeaderWait : Obligations.WireSentinelStartsTheHeaderWait := by
  refine fun s => ⟨fun hst hwf => ⟨takeSentinel s, wireByte_at hst, rfl, rfl, ?_, fun a ha => ?_⟩, wireByte_elsewhere⟩
  · rw [fbByte_takeSentinel hwf, if_pos rfl, sentinelByte]
  · rw [fbByte_takeSentinel hwf, if_neg ha]

/-- Settles O37, from the meaning of each kind's character. -/
theorem wireKindsEnterTheirWait : Obligations.WireKindsEnterTheirWait := fun s =>
  ⟨fun hst => ⟨exec_wireKind_at .request hst, exec_wireKind_at .response hst, exec_wireKind_at .interrupt hst,
    exec_wireKind_at .commError hst⟩, fun hst k => (exec_wireKind k s).trans (wireByte_elsewhere hst)⟩

/-- Settles O38, from the meaning of each algorithm's digit. -/
theorem wireEcasSelectTheirAlgorithm : Obligations.WireEcasSelectTheirAlgorithm := fun s =>
  ⟨fun hst => ⟨exec_wireEca_at .none hst, exec_wireEca_at .xor8 hst, exec_wireEca_at .checksum16 hst,
    exec_wireEca_at .lrc16 hst, exec_wireEca_at .fletcher16 hst, exec_wireEca_at .crc16 hst⟩,
    fun hst a => (exec_wireEca a s).trans (wireByte_elsewhere hst)⟩
end

section
/-! SUPPORT. The values of the check algorithms, and what a change of one covered byte does to each of them
(40_checksum.md R141 to R155). -/

namespace Sys2Proof.Machine

open Function (Injective)

variable {cfg : Params} {a : Alg} {s t p q : List Byte} {b b' : Byte} {chk : BitVec 16}

/-! ## The selector and the field -/

theorem field16_toNat (c : Word) : (field16 c).toNat = c.toNat % 65536 := BitVec.toNat_setWidth 16 c

theorem compute_xor8_toNat : (compute cfg .xor8 s).toNat = (chkXor8 s).toNat :=
  BitVec.toNat_setWidth_of_le (by decide)

theorem compute_lrc16_toNat : (compute cfg .lrc16 s).toNat = (chkLrc16 cfg.lrc16Signed s).toNat :=
  BitVec.toNat_setWidth_of_le (by decide)

theorem compute_fletcher16_toNat : (compute cfg .fletcher16 s).toNat = (chkFletcher16 cfg.fletcher16Signed s).toNat :=
  BitVec.toNat_setWidth_of_le (by decide)

theorem compute_crc16_toNat : (compute cfg .crc16 s).toNat = (chkCrc16 cfg.crc16FinalSwap s).toNat :=
  BitVec.toNat_setWidth_of_le (by decide)

/-- Only Checksum16 leaves the 16-bit field (40_checksum.md R145). -/
theorem compute_lt_of_ne_checksum16 (ha : a ≠ .checksum16) : (compute cfg a s).toNat < 65536 := by
  cases a with
  | none => exact Nat.zero_lt_succ 65535
  | xor8 => exact compute_xor8_toNat.trans_lt ((chkXor8 s).isLt.trans (by decide))
  | checksum16 => exact absurd rfl ha
  | lrc16 => exact compute_lrc16_toNat.trans_lt (chkLrc16 cfg.lrc16Signed s).isLt
  | fletcher16 => exact compute_fletcher16_toNat.trans_lt (chkFletcher16 cfg.fletcher16Signed s).isLt
  | crc16 => exact compute_crc16_toNat.trans_lt (chkCrc16 cfg.crc16FinalSwap s).isLt

/-- The field of an algorithm that stays within it is the whole value. -/
theorem field16_compute_toNat (ha : a ≠ .checksum16) : (field16 (compute cfg a s)).toNat = (compute cfg a s).toNat := by
  rw [field16_toNat, Nat.mod_eq_of_lt (compute_lt_of_ne_checksum16 ha)]

theorem field16_compute_eq_iff (ha : a ≠ .checksum16) :
    field16 (compute cfg a s) = field16 (compute cfg a t) ↔ (compute cfg a s).toNat = (compute cfg a t).toNat := by
  rw [← BitVec.toNat_inj, field16_compute_toNat ha, field16_compute_toNat ha]

theorem field16_compute_crc16 : field16 (compute cfg .crc16 s) = chkCrc16 cfg.crc16FinalSwap s :=
  BitVec.eq_of_toNat_eq ((field16_compute_toNat (by decide)).trans compute_crc16_toNat)

/-- Every check but the full comparison of Checksum16 is one of the field (40_checksum.md R152). -/
theorem checkOk_eq_field16 (ha : a ≠ .none) (hf : ¬(a = .checksum16 ∧ cfg.cs16Compare = .full)) :
    checkOk cfg a s chk = decide (field16 (compute cfg a s) = chk) := by
  cases a with
  | none => exact absurd rfl ha
  | checksum16 =>
    cases hc : cfg.cs16Compare with
    | full => exact absurd ⟨rfl, hc⟩ hf
    | masked16 => simp only [checkOk, hc]
  | xor8 | lrc16 | fletcher16 | crc16 => rfl

/-- The full comparison is one of the signed value (40_checksum.md R152). -/
theorem checkOk_checksum16_full (hf : cfg.cs16Compare = .full) :
    checkOk cfg .checksum16 s chk = decide ((compute cfg .checksum16 s).toInt = chk.toNat) := by
  simp only [checkOk, hf]

/-! ## Sums of bytes: Checksum16 and Lrc16 -/

/-- A fold that adds up words is the sum of the integers they stand for. -/
theorem foldl_add_eq_ofInt_sum {w : Nat} {f : Byte → BitVec w} {v : Byte → Int} (hf : ∀ b, f b = BitVec.ofInt w (v b)) :
    s.foldl (fun sum b => sum + f b) 0 = BitVec.ofInt w (s.map v).sum := by
  induction s using List.reverseRecOn with
  | nil => rfl
  | append_singleton s b ih =>
    rw [List.foldl_append, ih, List.foldl_cons, List.foldl_nil, hf, ← BitVec.ofInt_add, List.map_append, List.sum_append,
      List.map_singleton, List.sum_singleton]

/-- Checksum16 is the signed sum (40_checksum.md R144). -/
theorem chkCs16_eq_ofInt_sum : chkCs16 s = BitVec.ofInt 32 (s.map BitVec.toInt).sum :=
  foldl_add_eq_ofInt_sum fun _ => rfl

/-- Lrc16 is the negated sum (40_checksum.md R146). -/
theorem chkLrc16_eq_ofInt_neg_sum {signed : Bool} {v : Byte → Int}
    (hv : ∀ b, lrcValue signed b = BitVec.ofInt 16 (v b)) : chkLrc16 signed s = BitVec.ofInt 16 (-(s.map v).sum) := by
  have hneg : ∀ x : BitVec 16, (x ^^^ 0xFFFF) + 1 = -x := fun x => by
    rw [BitVec.neg_eq_not_add, ← BitVec.xor_allOnes]; rfl
  rw [chkLrc16, foldl_add_eq_ofInt_sum hv, hneg, BitVec.ofInt_neg]

theorem lrcValue_unsigned (b : Byte) : lrcValue false b = BitVec.ofInt 16 b.toNat := by
  rw [BitVec.ofInt_natCast, BitVec.ofNat_toNat]
  rfl

theorem lrcValue_signed (b : Byte) : lrcValue true b = BitVec.ofInt 16 b.toInt := rfl

theorem toNat_ofInt16 (z : Int) : ((BitVec.ofInt 16 z).toNat : Int) = z % 65536 := by
  rw [BitVec.toNat_ofInt, Int.toNat_of_nonneg (Int.emod_nonneg _ (by decide))]
  rfl

/-- The field of Checksum16 adds up what Lrc16 does on signed bytes. -/
theorem field16_chkCs16 : field16 (chkCs16 s) = s.foldl (fun sum b => sum + lrcValue true b) 0 := by
  rw [chkCs16_eq_ofInt_sum, foldl_add_eq_ofInt_sum lrcValue_signed]
  refine BitVec.eq_of_toNat_eq ?_
  rw [field16_toNat, BitVec.toNat_ofInt, BitVec.toNat_ofInt]
  omega

/-- Each signed byte is between -128 and 127. -/
theorem sum_toInt_bounds (s : List Byte) :
    -(128 * (s.length : Int)) ≤ (s.map BitVec.toInt).sum ∧ (s.map BitVec.toInt).sum ≤ 128 * s.length := by
  induction s with
  | nil => decide
  | cons b s ih =>
    have hlow : -128 ≤ b.toInt := BitVec.le_toInt b
    have hhigh : b.toInt < 128 := BitVec.toInt_lt
    simp only [List.map_cons, List.sum_cons, List.length_cons]
    omega

/-- The sum of as many bytes as `FB` holds stays within 32 bits (40_checksum.md R155). -/
theorem chkCs16_toInt (hs : s.length ≤ 4110) : (chkCs16 s).toInt = (s.map BitVec.toInt).sum := by
  have hsum := sum_toInt_bounds s
  rw [chkCs16_eq_ofInt_sum]
  exact BitVec.toInt_ofInt_eq_self (by decide) (by omega) (by omega)

/-! ## Xor8 -/

/-- Bit `i` of Xor8 is the parity of the bytes that have it set (40_checksum.md R143). -/
theorem chkXor8_getLsbD (i : Nat) :
    (chkXor8 s).getLsbD i = true ↔ (s.countP fun b => b.getLsbD i) % 2 = 1 := by
  induction s using List.reverseRecOn with
  | nil => simp [chkXor8]
  | append_singleton s b ih =>
    have hstep : chkXor8 (s ++ [b]) = chkXor8 s ^^^ b := by simp [chkXor8]
    rw [hstep, BitVec.getLsbD_xor, List.countP_append, List.countP_singleton]
    cases hb : b.getLsbD i with
    | false => simp [ih]
    | true =>
      rw [Bool.xor_true, Bool.not_eq_true', ← Bool.not_eq_true, ih, if_pos rfl]
      omega

/-! ## Fletcher16 -/

/-- The sum of the sums of all prefixes of a string. -/
def prefixSums (s : List Byte) : Nat :=
  ((List.range (s.length + 1)).map fun n => ((s.take n).map BitVec.toNat).sum).sum

theorem prefixSums_append_singleton :
    prefixSums (s ++ [b]) = prefixSums s + ((s ++ [b]).map BitVec.toNat).sum := by
  have hprefix : ∀ n ∈ List.range (s.length + 1), (((s ++ [b]).take n).map BitVec.toNat).sum =
      ((s.take n).map BitVec.toNat).sum := fun n hn => by
    rw [List.take_append_of_le_length (Nat.le_of_lt_succ (List.mem_range.mp hn))]
  have hlen : (s ++ [b]).length = s.length + 1 := List.length_append
  rw [prefixSums, hlen, List.range_succ, List.map_append, List.sum_append, List.map_congr_left hprefix, ← prefixSums,
    List.map_singleton, List.sum_singleton, ← hlen, List.take_length]

/-- The two accumulators: the sum, and the sum of the sums so far (40_checksum.md R147). -/
theorem foldl_fletcherStep :
    s.foldl fletcherStep ⟨0, 0⟩ = ⟨(s.map BitVec.toNat).sum % 255, prefixSums s % 255⟩ := by
  induction s using List.reverseRecOn with
  | nil => rfl
  | append_singleton s b ih =>
    have hsum : ((s ++ [b]).map BitVec.toNat).sum = (s.map BitVec.toNat).sum + b.toNat := by simp
    rw [List.foldl_append, ih, List.foldl_cons, List.foldl_nil, fletcherStep, prefixSums_append_singleton, hsum,
      Nat.mod_add_mod, Nat.mod_add_mod, Nat.add_mod_mod]

theorem fletcherUnsigned_toNat :
    (fletcherUnsigned s).toNat = 256 * (prefixSums s % 255) + (s.map BitVec.toNat).sum % 255 := by
  have hlow : (s.map BitVec.toNat).sum % 255 < 2 ^ 8 := by omega
  simp only [fletcherUnsigned, foldl_fletcherStep]
  rw [BitVec.toNat_ofNat, ← Nat.shiftLeft_add_eq_or_of_lt hlow, Nat.shiftLeft_eq]
  omega

theorem chkFletcher16_unsigned : chkFletcher16 false s = fletcherUnsigned s := if_neg fun h => Bool.noConfusion h.1

/-- Where no byte has its sign bit set, the two readings agree (40_checksum.md R148). -/
theorem chkFletcher16_of_low {signed : Bool} (hs : ∀ c ∈ s, c.toNat < 0x80) :
    chkFletcher16 signed s = fletcherUnsigned s := by
  refine if_neg fun h => ?_
  obtain ⟨c, hc, hge⟩ := List.any_eq_true.mp h.2
  exact absurd (of_decide_eq_true hge) (Nat.not_le_of_lt (hs c hc))

theorem compute_fletcher16_unsigned (hc : cfg.fletcher16Signed = false) :
    (compute cfg .fletcher16 s).toNat = (fletcherUnsigned s).toNat := by
  rw [compute_fletcher16_toNat, hc, chkFletcher16_unsigned]

/-- 0x00 and 0xFF are the same modulo 255. -/
theorem fletcherStep_zero (t : FletcherSums) : fletcherStep t 0x00 = fletcherStep t 0xFF := by
  have hsum : (t.sum1 + (0x00 : Byte).toNat) % 255 = (t.sum1 + (0xFF : Byte).toNat) % 255 := by simp
  rw [fletcherStep, fletcherStep, hsum]

theorem fletcherUnsigned_zero : fletcherUnsigned (p ++ 0x00 :: q) = fletcherUnsigned (p ++ 0xFF :: q) := by
  simp only [fletcherUnsigned, List.foldl_append, List.foldl_cons, fletcherStep_zero]

/-- Only 0x00 and 0xFF are taken for each other by Fletcher16 on unsigned bytes (40_checksum.md R154). -/
theorem fletcherUnsigned_change_iff (hne : b ≠ b') :
    fletcherUnsigned (p ++ b :: q) = fletcherUnsigned (p ++ b' :: q) ↔
      (b = 0x00 ∧ b' = 0xFF) ∨ (b = 0xFF ∧ b' = 0x00) := by
  constructor
  · intro h
    have hsums := congrArg BitVec.toNat h
    rw [fletcherUnsigned_toNat, fletcherUnsigned_toNat] at hsums
    simp only [List.map_append, List.map_cons, List.sum_append, List.sum_cons] at hsums
    have hmod : b.toNat % 255 = b'.toNat % 255 := by omega
    bv_omega
  · rintro (⟨rfl, rfl⟩ | ⟨rfl, rfl⟩)
    · exact fletcherUnsigned_zero
    · exact fletcherUnsigned_zero.symm

/-! ## Crc16 -/

/-- A shift moves bit 0 out to bit 15, where 0xA001 has a bit and the shifted word has none (40_checksum.md R149). -/
theorem crcShift_getLsbD_15 (c : BitVec 16) : (crcShift c).getLsbD 15 = c.getLsbD 0 := by
  unfold crcShift
  split <;> simp_all

/-- A shift loses nothing. -/
theorem crcShift_injective : Injective crcShift := by
  intro c d h
  have hzero : c.getLsbD 0 = d.getLsbD 0 := by rw [← crcShift_getLsbD_15, h, crcShift_getLsbD_15]
  have hshift : c >>> 1 = d >>> 1 := by
    rw [crcShift, crcShift, hzero] at h
    split at h
    · exact (BitVec.xor_left_inj _).mp h
    · exact h
  refine BitVec.eq_of_getLsbD_eq fun i _ => ?_
  cases i with
  | zero => exact hzero
  | succ i => simpa [Nat.add_comm] using congrArg (BitVec.getLsbD · i) hshift

theorem crcShifts_injective (n : Nat) : Injective (crcShifts n) := by
  induction n with
  | zero => exact fun _ _ h => h
  | succ n ih => exact ih.comp crcShift_injective

theorem crcStep_injective_crc (b : Byte) : Injective (crcStep · b) := fun _ _ h =>
  (BitVec.xor_left_inj _).mp (crcShifts_injective 8 h)

theorem crcStep_injective_byte (crc : BitVec 16) : Injective (crcStep crc) := by
  intro b b' h
  have hwide : b.setWidth 16 = b'.setWidth 16 := (BitVec.xor_right_inj crc).mp (crcShifts_injective 8 h)
  bv_omega

/-- The swap exchanges the two bytes (40_checksum.md R150). -/
theorem crcFinal_swap_toNat (c : BitVec 16) : (crcFinal true c).toNat = 256 * (c.toNat % 256) + c.toNat / 256 := by
  rw [crcFinal, if_pos rfl, toNat_append_eq_add, BitVec.extractLsb'_toNat, BitVec.extractLsb'_toNat,
    Nat.shiftRight_eq_div_pow, Nat.shiftRight_eq_div_pow]
  omega

theorem crcFinal_injective (swap : Bool) : Injective (crcFinal swap) := by
  cases swap with
  | false => exact fun _ _ h => h
  | true =>
    intro c d h
    have hbytes := congrArg BitVec.toNat h
    rw [crcFinal_swap_toNat, crcFinal_swap_toNat] at hbytes
    bv_omega

/-- A further byte is one more step (40_checksum.md R149). -/
theorem chkCrc16_append_singleton : chkCrc16 false (s ++ [b]) = crcStep (chkCrc16 false s) b :=
  List.foldl_append

/-- The spec's check value of `123456789` (40_checksum.md R149). -/
theorem chkCrc16_checkValue :
    chkCrc16 false [0x31, 0x32, 0x33, 0x34, 0x35, 0x36, 0x37, 0x38, 0x39] = 0x4B37 := by
  simp [chkCrc16, crcFinal, crcStep, crcShifts, crcShift]

/-! ## A change of one byte -/

/-- A fold is injective in its start where each of its steps is. -/
theorem foldl_injective {α : Type} {f : α → Byte → α} (hacc : ∀ b, Injective (f · b)) (l : List Byte) :
    Injective (l.foldl f) := by
  induction l with
  | nil => exact fun _ _ h => h
  | cons b l ih => exact ih.comp (hacc b)

/-- A fold whose steps lose neither what they start from nor the byte they take in shows a change of one byte. -/
theorem foldl_ne_of_byte_ne {α : Type} {f : α → Byte → α} (hacc : ∀ b, Injective (f · b)) (hbyte : ∀ x, Injective (f x))
    (hne : b ≠ b') (x : α) : (p ++ b :: q).foldl f x ≠ (p ++ b' :: q).foldl f x := by
  rw [List.foldl_append, List.foldl_append, List.foldl_cons, List.foldl_cons]
  exact fun h => hne (hbyte _ (foldl_injective hacc q h))

theorem lrcValue_injective (signed : Bool) : Injective (lrcValue signed) := by
  intro b b' h
  cases signed with
  | false =>
    rw [lrcValue_unsigned, lrcValue_unsigned, BitVec.ofInt_natCast, BitVec.ofInt_natCast] at h
    bv_omega
  | true =>
    have hint := congrArg BitVec.toInt h
    rwa [lrcValue, lrcValue, if_pos rfl, if_pos rfl, BitVec.toInt_signExtend_of_le (by decide),
      BitVec.toInt_signExtend_of_le (by decide), BitVec.toInt_inj] at hint

/-- The sum of the bytes, read either way, shows a change of one (40_checksum.md R154). -/
theorem foldl_add_lrcValue_ne (signed : Bool) (hne : b ≠ b') :
    (p ++ b :: q).foldl (fun sum b => sum + lrcValue signed b) 0 ≠
      (p ++ b' :: q).foldl (fun sum b => sum + lrcValue signed b) 0 :=
  foldl_ne_of_byte_ne (fun _ => add_left_injective _) (fun _ => (add_right_injective _).comp (lrcValue_injective signed))
    hne 0

theorem chkXor8_ne (hne : b ≠ b') : chkXor8 (p ++ b :: q) ≠ chkXor8 (p ++ b' :: q) :=
  foldl_ne_of_byte_ne (fun b _ _ => (BitVec.xor_left_inj b).mp) (fun x _ _ => (BitVec.xor_right_inj x).mp) hne 0

theorem chkLrc16_ne (signed : Bool) (hne : b ≠ b') : chkLrc16 signed (p ++ b :: q) ≠ chkLrc16 signed (p ++ b' :: q) :=
  fun h => foldl_add_lrcValue_ne signed hne ((BitVec.xor_left_inj _).mp (add_left_injective _ h))

theorem chkCrc16_ne (swap : Bool) (hne : b ≠ b') : chkCrc16 swap (p ++ b :: q) ≠ chkCrc16 swap (p ++ b' :: q) :=
  fun h => foldl_ne_of_byte_ne crcStep_injective_crc crcStep_injective_byte hne _ (crcFinal_injective swap h)

end Sys2Proof.Machine

open Sys2Proof Sys2Proof.Machine

/-- Settles O13: each fold gives its start on the empty string. -/
theorem emptyStringGivesTheInitialValue : Obligations.EmptyStringGivesTheInitialValue := by
  intro cfg a
  cases a with
  | none | xor8 | checksum16 => rfl
  | lrc16 =>
    rw [compute, chkLrc16, List.foldl_nil]
    rfl
  | fletcher16 =>
    have hunsigned : chkFletcher16 cfg.fletcher16Signed [] = fletcherUnsigned [] := chkFletcher16_of_low nofun
    rw [compute, hunsigned]
    rfl
  | crc16 =>
    have hseed : crcFinal cfg.crc16FinalSwap 0xFFFF = 0xFFFF := by cases cfg.crc16FinalSwap <;> rfl
    rw [compute, chkCrc16, List.foldl_nil, hseed]
    rfl

/-- Settles O14, from what each algorithm's check compares. -/
theorem checkIsAcceptedExactlyOnItsField : Obligations.CheckIsAcceptedExactlyOnItsField := by
  refine fun cfg a cov chk => ⟨fun ha => ha ▸ rfl, fun ha hf => ?_, fun ha hf => ?_⟩
  · rw [checkOk_eq_field16 ha hf, decide_eq_true_iff, ← BitVec.toNat_inj, field16_toNat]
  · subst ha
    rw [checkOk_checksum16_full hf, decide_eq_true_iff, decide_eq_false_iff_not]
    have hchk : chk.toNat < 65536 := chk.isLt
    omega

/-- Settles O11: the bound of each value, and the widths of the algorithms that keep to the field. -/
theorem checkValuesStayInTheirRanges : Obligations.CheckValuesStayInTheirRanges := by
  refine fun cfg s => ⟨rfl, ?_, fun hs => ?_, ?_, fun hc => ?_, ?_, fun a => field16_compute_toNat⟩
  · exact Nat.le_of_lt_succ (compute_xor8_toNat.trans_lt (chkXor8 s).isLt)
  · have hsum := sum_toInt_bounds s
    rw [compute, chkCs16_toInt hs]
    omega
  · exact Nat.le_of_lt_succ (compute_lt_of_ne_checksum16 (by decide))
  · rw [compute_fletcher16_unsigned hc, fletcherUnsigned_toNat]
    omega
  · exact Nat.le_of_lt_succ (compute_lt_of_ne_checksum16 (by decide))

/-- Settles O10: the steps of the four folds lose nothing; those of Fletcher16 take 0x00 for 0xFF. -/
theorem singleByteChangesAreDetected : Obligations.SingleByteChangesAreDetected := by
  refine fun cfg p q b b' hne => ⟨?_, ?_, ?_, ?_, fun hc => ?_, rfl⟩
  · rw [Ne, field16_compute_eq_iff (by decide), compute_xor8_toNat, compute_xor8_toNat, BitVec.toNat_inj]
    exact chkXor8_ne hne
  · rw [compute, compute, field16_chkCs16, field16_chkCs16]
    exact foldl_add_lrcValue_ne true hne
  · rw [Ne, field16_compute_eq_iff (by decide), compute_lrc16_toNat, compute_lrc16_toNat, BitVec.toNat_inj]
    exact chkLrc16_ne _ hne
  · rw [field16_compute_crc16, field16_compute_crc16]
    exact chkCrc16_ne _ hne
  · rw [field16_compute_eq_iff (by decide), compute_fletcher16_unsigned hc, compute_fletcher16_unsigned hc,
      BitVec.toNat_inj]
    exact fletcherUnsigned_change_iff hne

/-- Settles O12, algorithm by algorithm. -/
theorem checkAlgorithmsComputeTheSpecsValues : Obligations.CheckAlgorithmsComputeTheSpecsValues := by
  refine fun cfg s b =>
    ⟨?_, fun i _ => ?_, chkCs16_eq_ofInt_sum, fun hc => ?_, fun hc => ?_, fun hc => ?_, fun hc => ⟨?_, ?_, ?_⟩, ?_⟩
  · exact compute_xor8_toNat.trans_lt (chkXor8 s).isLt
  · have hbit : (compute cfg .xor8 s).getLsbD i = (chkXor8 s).getLsbD i := by
      rw [BitVec.getLsbD, compute_xor8_toNat, ← BitVec.getLsbD]
    rw [hbit, chkXor8_getLsbD]
  · rw [compute_lrc16_toNat, hc, chkLrc16_eq_ofInt_neg_sum lrcValue_unsigned, toNat_ofInt16]
  · rw [compute_lrc16_toNat, hc, chkLrc16_eq_ofInt_neg_sum lrcValue_signed, toNat_ofInt16]
  · have hunsigned : chkFletcher16 cfg.fletcher16Signed s = fletcherUnsigned s :=
      hc.elim (fun hc => hc ▸ chkFletcher16_unsigned) chkFletcher16_of_low
    rw [compute_fletcher16_toNat, hunsigned]
    exact fletcherUnsigned_toNat
  · rw [compute_crc16_toNat, hc]
    rfl
  · rw [compute_crc16_toNat, field16_compute_crc16, hc, chkCrc16_append_singleton]
    rfl
  · rw [compute, hc, chkCrc16_checkValue]
    rfl
  · rw [compute_crc16_toNat, compute_crc16_toNat]
    exact crcFinal_swap_toNat _
end

section
/-! SUPPORT. What an encode writes, and what it reads (41_encoder.md R181 to R187). -/

namespace Sys2Proof.Machine

variable {s : State} {i : Instr} {k : Kind} {alg : Alg} {dev : Word} {body : List Byte}

/-- A long frame's covered bytes (41_encoder.md R181, R182). -/
theorem coveredBytes_longBody {cfg : Params} {lreq : Word} {pbuf : List Byte} {l : Nat}
    (hl : effectiveLength cfg.fieldOverflow lreq pbuf = l) : coveredBytes cfg k alg dev (longBody cfg lreq pbuf) =
      [0x21, kindChar k, ecaChar alg] ++ hexN 3 (fit cfg.fieldOverflow 12 dev.toNat) ++ hexN 3 l ++ pbuf.take l := by
  subst hl
  exact (List.append_assoc ([0x21, kindChar k, ecaChar alg] ++ hexN 3 _) (hexN 3 _) _).symm

/-- The state in which an encode that covers the bytes `cov` leaves a block with an open channel (41_encoder.md R182). -/
def encoded (alg : Alg) (cov : List Byte) (s : State) : State :=
  { s with
    phase := .done
    ok := true
    checkOut := some (compute s.cfg alg cov)
    tx := s.tx ++ (cov ++ hexN 4 ((compute s.cfg alg cov).toNat % 65536) ++ [0x0D, 0x0A]) }

theorem encodeFrame_open (ho : s.chanOpen = true) :
    encodeFrame k alg dev body s = encoded alg (coveredBytes s.cfg k alg dev body) s := by
  rw [encodeFrame, if_pos ho, encoded, ← field16_toNat]
  rfl

theorem encodeFrame_closed (ho : s.chanOpen = false) : encodeFrame k alg dev body s = complete false s := by
  rw [encodeFrame, ho, if_neg Bool.false_ne_true]

theorem SameDecoder.refl (s : State) : SameDecoder s s :=
  ⟨rfl, rfl, rfl, rfl, rfl, rfl, rfl, rfl, rfl, rfl, fun _ => rfl⟩

/-- Every encode in progress writes one frame, whose body depends on the parameters alone. -/
theorem exec_encode (h : IsEncode i) : ∃ (k : Kind) (alg : Alg) (dev : Word) (body : Params → List Byte),
    ∀ s, Executing i s → exec i s = .next (encodeFrame k alg dev (body s.cfg) s) := by
  obtain ⟨alg, dev, x, pbuf, rfl | rfl | rfl | rfl⟩ := h
  · exact ⟨.request, alg, dev, (longBody · x pbuf), fun s => exec_encReq_executing⟩
  · exact ⟨.response, alg, dev, (longBody · x pbuf), fun s => exec_encRsp_executing⟩
  · exact ⟨.interrupt, alg, dev, (shortBody · x), fun s => exec_encSip_executing⟩
  · exact ⟨.commError, alg, dev, (shortBody · x), fun s => exec_encCep_executing⟩

end Sys2Proof.Machine

open Sys2Proof Sys2Proof.Machine

/-- Settles O16, from the covered bytes of a long frame. -/
theorem longEncodersWriteTheirFrame : Obligations.LongEncodersWriteTheirFrame := by
  intro s alg dev lreq pbuf _ ho o l cov written
  have hwritten : ∀ k, encodeFrame k alg dev (longBody s.cfg lreq pbuf) s = written (kindChar k) := fun k => by
    rw [encodeFrame_open ho, coveredBytes_longBody rfl]
    rfl
  exact ⟨fun hx => (exec_encReq_executing hx).trans (congrArg _ (hwritten .request)),
    fun hx => (exec_encRsp_executing hx).trans (congrArg _ (hwritten .response))⟩

/-- Settles O17: the covered bytes of a short frame end with its code field. -/
theorem shortEncodersWriteTheirFrame : Obligations.ShortEncodersWriteTheirFrame := fun _ _ _ _ ho =>
  ⟨fun hx => (exec_encSip_executing hx).trans (congrArg _ (encodeFrame_open ho)),
    fun hx => (exec_encCep_executing hx).trans (congrArg _ (encodeFrame_open ho))⟩

/-- Settles O20: on an open channel both states get the same frame and check value, on a closed one neither gets any. -/
theorem encodersReadAndWriteNothingElse : Obligations.EncodersReadAndWriteNothingElse := by
  intro s s' t t' i hi hx hx' ht ht' hcfg hopen
  obtain ⟨k, alg, dev, body, hexec⟩ := exec_encode hi
  cases (hexec s hx).symm.trans ht
  cases (hexec s' hx').symm.trans ht'
  cases ho : s.chanOpen with
  | true =>
    rw [encodeFrame_open ho, encodeFrame_open (hopen.symm.trans ho), ← hcfg]
    refine ⟨⟨_, rfl, ?_⟩, rfl, fun _ => ?_, nofun, SameDecoder.refl s, SameResults.refl s, rfl, ho,
      rfl, rfl, rfl, rfl⟩
    · rw [encoded, ← hcfg]
    · rw [encoded, encoded, ← hcfg]
  | false =>
    rw [encodeFrame_closed ho, encodeFrame_closed (hopen.symm.trans ho)]
    exact ⟨⟨[], (List.append_nil _).symm, (List.append_nil _).symm⟩, rfl, nofun, fun _ => rfl,
      SameDecoder.refl s, SameResults.refl s, rfl, ho, rfl, rfl, rfl, rfl⟩
end

section
/-! SUPPORT. How a receive takes an encoded frame from `RX`, field by field (41_encoder.md R189, 42_decoder.md R225 to
R257). -/

namespace Sys2Proof.Machine

variable {s t u v : State} {cfg : Params} {got rest : List Byte} {k : Kind} {a : Alg}

/-! ## Runs and fields -/

/-- A step before a run. -/
theorem Reaches.succ {n : Nat} (ht : Reaches n t u) (h : step s = .next t) : Reaches (n + 1) s u :=
  (run_succ_next h).trans ht

theorem Reaches.one (h : step s = .next t) : Reaches 1 s t := Reaches.succ (n := 0) rfl h

/-- A run before a run. -/
theorem Reaches.trans {m n : Nat} (h : Reaches m s t) (ht : Reaches n t u) : Reaches (m + n) s u := by
  induction m generalizing s with
  | zero =>
    cases h
    rwa [Nat.zero_add]
  | succ m ih =>
    cases hstep : step s with
    | next v =>
      have hrest : Reaches m v t := (run_succ_next hstep).symm.trans h
      rw [Nat.add_right_comm]
      exact (ih hrest).succ hstep
    | fault f => simp [Reaches, Host.Core.run, show Sys2Proof.core.step s = _ from hstep] at h
    | refused r => simp [Reaches, Host.Core.run, show Sys2Proof.core.step s = _ from hstep] at h

/-- A field of a string of bytes that a store holds from address 0 on. -/
theorem Memory.readBytes_field {m : Memory} {before field after : List Byte}
    (h : Memory.readBytes m 0 (before ++ (field ++ after)).length = before ++ (field ++ after)) :
    Memory.readBytes m before.length field.length = field := by
  rw [List.length_append, List.length_append, Memory.readBytes_append, Memory.readBytes_append, Nat.zero_add] at h
  obtain ⟨-, hrest⟩ := List.append_inj h (Memory.length_readBytes _ _ _)
  obtain ⟨hfield, -⟩ := List.append_inj hrest (Memory.length_readBytes _ _ _)
  exact hfield

/-! ## A receive within a frame -/

/-- A receive in progress, with the parameters `cfg`, that has taken the bytes `got` of a frame, while `rest` waits in
`RX` and nothing more comes. -/
structure Reading (cfg : Params) (got rest : List Byte) (s : State) : Prop where
  config : s.cfg = cfg
  executing : Executing .decRecv s
  events : s.events = []
  quiet : s.supply = .quiet
  chanOpen : s.chanOpen = true
  readFull : s.cfg.chanReadFull = true
  rx : s.rx = rest
  fbn : s.fbn = got.length
  fb : fbBytes 0 got.length s = got
  wf : Memory.wf s.fb = true

/-- The next step is the receive's own. -/
theorem Reading.step_eq (h : Reading cfg got rest s) : step s = receiveStep s := by
  rw [step_executing h.executing (.inl h.events), supplyNext_quiet s h.quiet, exec_decRecv_executing h.executing]

theorem Reading.headerOnly (h : Reading cfg got rest u) (hv : HeaderOnly u v) : Reading cfg got rest v := by
  rw [HeaderOnly] at hv
  rw [hv]
  exact ⟨h.config, h.executing, h.events, h.quiet, h.chanOpen, h.readFull, h.rx, h.fbn, h.fb, h.wf⟩

theorem Reading.after_enterWait {w : DecState} {n : Nat} (h : Reading cfg got rest s) :
    Reading cfg got rest (enterWait w n s) :=
  ⟨h.config, h.executing, h.events, h.quiet, h.chanOpen, h.readFull, h.rx, h.fbn, h.fb, h.wf⟩

/-- A field of the bytes taken so far. -/
theorem Reading.fbBytes_eq {before field after : List Byte} {n len : Nat} (h : Reading cfg got rest s)
    (hgot : got = before ++ (field ++ after)) (hn : before.length = n) (hlen : field.length = len) :
    fbBytes n len s = field := by
  subst hgot hn hlen
  exact Memory.readBytes_field h.fb

/-- One of the bytes taken so far. -/
theorem Reading.fbByte_eq {before after : List Byte} {b : Byte} {n : Nat} (h : Reading cfg got rest s)
    (hgot : got = before ++ b :: after) (hn : before.length = n) : fbByte n s = b :=
  (List.cons.inj (h.fbBytes_eq (field := [b]) hgot hn rfl)).1

/-- The state of a wait once it has taken `chunk` and left `rest` (42_decoder.md R225). -/
def chunkRead (chunk rest : List Byte) (s : State) : State := fbAppend chunk { s with rx := rest }

theorem Reading.after_chunkRead {chunk : List Byte} (h : Reading cfg got (chunk ++ rest) s) :
    Reading cfg (got ++ chunk) rest (chunkRead chunk rest s) := by
  refine ⟨h.config, h.executing, h.events, h.quiet, h.chanOpen, h.readFull, rfl, ?_, ?_, Memory.wf_writeBytes h.wf⟩
  · rw [List.length_append, ← h.fbn]
    rfl
  · have hkept : Memory.readBytes (Memory.writeBytes s.fb got.length chunk) 0 got.length = got :=
      (Memory.readBytes_writeBytes_below h.wf (Nat.zero_add _).le).trans h.fb
    show Memory.readBytes (Memory.writeBytes s.fb s.fbn chunk) 0 _ = _
    rw [h.fbn, List.length_append, Memory.readBytes_append, hkept, Nat.zero_add, Memory.readBytes_writeBytes_same h.wf]

/-- A wait whose bytes are there takes and processes them. -/
theorem Reading.step_poll {process : State → State} {chunk : List Byte} (h : Reading cfg got (chunk ++ rest) s)
    (hpoll : receiveStep s = pollStep process s) (hneed : s.need = chunk.length)
    (hfit : got.length + chunk.length ≤ Config.frameMax) : step s = .next (process (chunkRead chunk rest s)) := by
  have henough : s.need ≤ s.rx.length := by rw [h.rx, hneed, List.length_append]; omega
  have htake : s.rx.take s.need = chunk := by rw [h.rx, hneed, List.take_left]
  have hdrop : s.rx.drop s.need = rest := by rw [h.rx, hneed, List.drop_left]
  rw [h.step_eq, hpoll, pollStep_full h.readFull h.chanOpen henough (by rwa [h.fbn, hneed]), htake, hdrop, chunkRead]

/-! ## From the accept step to the header -/

/-- The accept step of `DEC_RECV` (42_decoder.md R220). -/
theorem step_decRecv {p : Ports} (hr : Ready s) (he : s.events = [.command 0x05 p]) (hq : s.supply = .quiet)
    (ho : s.chanOpen = true) (hf : s.cfg.chanReadFull = true) (hwf : Memory.wf s.fb = true) :
    ∃ u, step s = .next u ∧ Reading s.cfg [] s.rx u ∧ u.st = .scan :=
  ⟨_, (step_command hr he).trans (exec_accepts (i := .decRecv) rfl rfl hr),
    ⟨rfl, rfl, rfl, hq, ho, hf, rfl, rfl, rfl, hwf⟩, rfl⟩

/-- The scan takes the sentinel (42_decoder.md R230). -/
theorem Reading.step_scan (h : Reading cfg [] (sentinelByte :: rest) s) (hst : s.st = .scan) :
    ∃ u, step s = .next u ∧ Reading cfg [sentinelByte] rest u ∧ u.st = .waitHdr ∧ u.need = 5 := by
  have hread : chanRead 1 s = ([sentinelByte], { s with rx := rest }) := by
    rw [chanRead_full 1 h.readFull, chanAvail_open h.chanOpen, h.rx, List.length_cons,
      Nat.min_eq_left (Nat.le_add_left ..)]
    rfl
  have htaken : Reading cfg [sentinelByte] rest (takeSentinel { s with rx := rest }) :=
    ⟨h.config, h.executing, h.events, h.quiet, h.chanOpen, h.readFull, rfl, rfl,
      Memory.readBytes_writeBytes_same (bs := [sentinelByte]) h.wf, Memory.wf_writeBytes h.wf⟩
  have hscan : receiveStep s = .next (scanStep s) := by rw [receiveStep, hst]
  refine ⟨_, ?_, htaken, rfl, rfl⟩
  rw [h.step_eq, hscan, scanStep_sentinel (congrArg Prod.fst hread), hread]

/-- Bytes 1 to 5 of a frame: kind, ECA digit, device id (41_encoder.md R182). -/
def headerBytes (k : Kind) (a : Alg) (dev : Nat) : List Byte := kindChar k :: ecaChar a :: hexN 3 dev

/-- The header registers hold the fields of an encoded header (42_decoder.md R233). -/
def HeaderIs (k : Kind) (a : Alg) (dev : Nat) (s : State) : Prop :=
  s.hKind = kindChar k ∧ s.hEca = a ∧ s.hDev = BitVec.ofNat 12 dev

/-- The header wait reads an encoded header back (42_decoder.md R233, R235). -/
theorem Reading.step_header {dev : Nat} (h : Reading cfg [sentinelByte] (headerBytes k a dev ++ rest) s)
    (hst : s.st = .waitHdr) (hneed : s.need = 5) (hdev : dev < 16 ^ 3) :
    ∃ u, step s = .next u ∧ Reading cfg (sentinelByte :: headerBytes k a dev) rest u ∧ u.st = kindWait k ∧
      u.need = kindNeed k ∧ HeaderIs k a dev u := by
  have hlen : (headerBytes k a dev).length = 5 := by simp [headerBytes]
  have hread := h.after_chunkRead
  have hk := hread.fbByte_eq (before := [sentinelByte]) (n := 1) rfl rfl
  have ha := hread.fbByte_eq (before := [sentinelByte, kindChar k]) (n := 2) rfl rfl
  have hfield := hread.fbBytes_eq (before := [sentinelByte, kindChar k, ecaChar a]) (field := hexN 3 dev) (after := [])
    (n := 3) (by rw [List.append_nil]; rfl) rfl (length_hexN 3 dev)
  refine ⟨_, h.step_poll (by rw [receiveStep, hst]) (hneed.trans hlen.symm) (by rw [hlen]; decide), ?_⟩
  rw [processHeader_accepts hk ha (by rw [hfield]; exact parseHexFrom_zero_hexN _ hdev)]
  exact ⟨Reading.after_enterWait (hread.headerOnly rfl), rfl, rfl, rfl, rfl, rfl⟩

/-! ## The length -/

theorem processLength_accepts {l : Nat} (hl : parseHex s.cfg.hexLowerOk (fbBytes 6 3 s) = some l) :
    processLength s = enterWait .waitBody (l + 6) { s with hLen := BitVec.ofNat 12 l } := by
  rw [processLength, hl]

/-- The length wait reads an encoded length back (42_decoder.md R240). -/
theorem Reading.step_length {dev l : Nat} (h : Reading cfg got (hexN 3 l ++ rest) s) (hgot : got.length = 6)
    (hst : s.st = .waitLen) (hneed : s.need = 3) (hl : l < 16 ^ 3) (hh : HeaderIs k a dev s) :
    ∃ u, step s = .next u ∧ Reading cfg (got ++ hexN 3 l) rest u ∧ u.st = .waitBody ∧ u.need = l + 6 ∧
      u.hLen = BitVec.ofNat 12 l ∧ HeaderIs k a dev u := by
  have hread := h.after_chunkRead
  have hfield := hread.fbBytes_eq (before := got) (field := hexN 3 l) (after := []) (by rw [List.append_nil]) hgot
    (length_hexN 3 l)
  refine ⟨_, h.step_poll (by rw [receiveStep, hst]) (by rw [hneed, length_hexN]) ?_, ?_⟩
  · rw [hgot, length_hexN]
    decide
  · rw [processLength_accepts (by rw [hfield]; exact parseHexFrom_zero_hexN _ hl)]
    exact ⟨Reading.after_enterWait (hread.headerOnly rfl), rfl, rfl, rfl, hh⟩

/-! ## The check field and the terminator -/

/-- The check field, CR and LF (41_encoder.md R182). -/
def trailerBytes (chk : BitVec 16) : List Byte := hexN 4 chk.toNat ++ [0x0D, 0x0A]

theorem length_trailerBytes (chk : BitVec 16) : (trailerBytes chk).length = 6 := by simp [trailerBytes]

/-- Where the covered bytes, the check field, CR and LF of a frame stand, once they are all taken. -/
theorem Reading.trailer {cov : List Byte} {chk : BitVec 16} {n cr lf : Nat}
    (h : Reading cfg (cov ++ trailerBytes chk) rest s) (hn : cov.length = n) (hcr : cr = n + 4) (hlf : lf = n + 5) :
    fbBytes 0 n s = cov ∧ fbBytes n 4 s = hexN 4 chk.toNat ∧ fbByte cr s = 0x0D ∧ fbByte lf s = 0x0A := by
  subst hn hcr hlf
  exact ⟨h.fbBytes_eq (before := []) rfl rfl rfl, h.fbBytes_eq rfl rfl (length_hexN _ _),
    h.fbByte_eq (before := cov ++ hexN 4 chk.toNat) (after := [0x0A]) (by simp [trailerBytes]) (by simp),
    h.fbByte_eq (before := cov ++ hexN 4 chk.toNat ++ [0x0D]) (after := []) (by simp [trailerBytes]) (by simp)⟩

/-- The field an encode renders passes its own check, and so does any field under ECA None (40_checksum.md R152). -/
theorem checkOk_field {cov : List Byte} {c : BitVec 16} (hm : cfg.cs16Compare = .masked16)
    (h : a = .none ∨ c = field16 (compute cfg a cov)) : checkOk cfg a cov c = true := by
  by_cases ha : a = .none
  · subst ha
    rfl
  · rw [checkOk_eq_field16 ha (by simp [hm]), h.resolve_left ha, decide_eq_true rfl]

/-- A rendered check field is latched, unless the parameters leave it unread under ECA None (42_decoder.md R245). -/
theorem latchCheck_hexN {n : Nat} {chk : BitVec 16} (h : fbBytes n 4 s = hexN 4 chk.toNat) :
    ∃ c, latchCheck n s = some { s with hChk := c } ∧ (s.hEca = .none ∨ c = chk) := by
  unfold latchCheck
  split
  · refine ⟨chk, ?_, .inr rfl⟩
    have hchk : BitVec.ofNat 16 chk.toNat = chk := by simp
    rw [h, parseHex, parseHexFrom_zero_hexN _ chk.isLt]
    exact congrArg (fun c => some { s with hChk := c }) hchk
  · rename_i hnot
    have heca : s.hEca = .none := by by_contra hne; simp [parsesCheck, hne] at hnot
    exact ⟨s.hChk, rfl, .inl heca⟩

/-- CR LF ends a frame under either rule (42_decoder.md R246). -/
theorem termOk_crlf (rule : TermRule) : termOk rule 0x0D 0x0A = true := by cases rule <;> rfl

/-- The receive has ended in `u` with the frame accepted and taken whole from `RX`. -/
def Decoded (k : Kind) (dev col : BitVec 12) (present : Bool) (payload : List Byte) (a : Alg) (u : State) : Prop :=
  u.phase = .done ∧ u.ok = true ∧ u.rx = [] ∧ FrameResult k dev col present payload a u

/-! ## The end of a Request or Response -/

/-- The kinds of the long format. -/
theorem kind_of_waitLen (hk : kindWait k = .waitLen) : longKind (kindChar k) = k ∧ kindNeed k = 3 := by
  cases k with
  | request | response => exact ⟨rfl, rfl⟩
  | interrupt | commError => cases hk

theorem processBody_accepts {l : Nat} {chk : BitVec 16} (hl : s.hLen.toNat = l) (hm : s.cfg.cs16Compare = .masked16)
    (hfield : fbBytes (9 + l) 4 s = hexN 4 chk.toNat)
    (hchk : chk = field16 (compute s.cfg s.hEca (fbBytes 0 (9 + l) s)))
    (hcr : fbByte (13 + l) s = 0x0D) (hlf : fbByte (14 + l) s = 0x0A) :
    ∃ c, processBody s = acceptFrame (longKind s.hKind) s.hLen true (fbBytes 9 l s) { s with hChk := c } := by
  subst hl
  obtain ⟨c, hlatch, hc⟩ := latchCheck_hexN hfield
  have hok := checkOk_field hm (hc.imp_right (·.trans hchk))
  have hterm : termOk s.cfg.termRule (fbByte (13 + s.hLen.toNat) s) (fbByte (14 + s.hLen.toNat) s) = true := by
    rw [hcr, hlf, termOk_crlf]
  refine ⟨c, ?_⟩
  rw [processBody, hlatch]
  exact (if_pos hok).trans (if_pos hterm)

/-- A payload with its check field and terminator, once taken, is accepted (42_decoder.md R245, R247). -/
theorem Reading.decoded_processBody {payload : List Byte} {dev : Nat} {chk : BitVec 16}
    (h : Reading cfg (got ++ (payload ++ trailerBytes chk)) [] s) (hgot : got.length = 9)
    (hlen : s.hLen.toNat = payload.length) (hh : HeaderIs k a dev s) (hk : kindWait k = .waitLen)
    (hm : cfg.cs16Compare = .masked16) (hchk : chk = field16 (compute cfg a (got ++ payload))) :
    Decoded k (BitVec.ofNat 12 dev) s.hLen true payload a (processBody s) := by
  obtain ⟨hkind, rfl, hdev⟩ := hh
  obtain ⟨hlong, -⟩ := kind_of_waitLen hk
  have hpayload := h.fbBytes_eq rfl hgot (field := payload) rfl
  rw [← List.append_assoc] at h
  obtain ⟨hcov, hfield, hcr, hlf⟩ := h.trailer (n := 9 + payload.length) (cr := 13 + payload.length)
    (lf := 14 + payload.length) (by rw [List.length_append, hgot]) (by omega) (by omega)
  obtain ⟨c, hprocess⟩ := processBody_accepts hlen (h.config ▸ hm) hfield (by rw [hcov, h.config]; exact hchk) hcr hlf
  rw [hprocess, hpayload, hkind, hlong]
  exact ⟨rfl, rfl, h.rx, rfl, congrArg some hdev, rfl, rfl, rfl, rfl⟩

/-- The body wait takes and accepts the rest of an encoded frame. -/
theorem Reading.step_body {payload : List Byte} {dev : Nat} {chk : BitVec 16}
    (h : Reading cfg got (payload ++ trailerBytes chk) s) (hgot : got.length = 9) (hst : s.st = .waitBody)
    (hneed : s.need = payload.length + 6) (hlen : s.hLen.toNat = payload.length) (hh : HeaderIs k a dev s)
    (hk : kindWait k = .waitLen) (hm : cfg.cs16Compare = .masked16)
    (hchk : chk = field16 (compute cfg a (got ++ payload))) :
    ∃ u, step s = .next u ∧ Decoded k (BitVec.ofNat 12 dev) s.hLen true payload a u := by
  have hchunk : (payload ++ trailerBytes chk).length = payload.length + 6 := by simp [length_trailerBytes]
  have hfit : got.length + (payload ++ trailerBytes chk).length ≤ Config.frameMax := by
    have hmax : s.hLen.toNat < 4096 := s.hLen.isLt
    rw [hgot, hchunk, ← hlen, Config.frameMax]
    omega
  rw [← List.append_nil (payload ++ _)] at h
  exact ⟨_, h.step_poll (by rw [receiveStep, hst]) (hneed.trans hchunk.symm) hfit,
    h.after_chunkRead.decoded_processBody hgot hlen hh hk hm hchk⟩

/-! ## The end of an Interrupt or CommError -/

/-- The kinds of the short format. -/
theorem kind_of_waitShort (hk : kindWait k = .waitShort) : shortKind (kindChar k) = k ∧ kindNeed k = 8 := by
  cases k with
  | request | response => cases hk
  | interrupt | commError => exact ⟨rfl, rfl⟩

theorem processShort_accepts {code : Nat} {chk : BitVec 16} (hm : s.cfg.cs16Compare = .masked16)
    (hcode : parseHex s.cfg.hexLowerOk (fbBytes 6 2 s) = some code)
    (hfield : fbBytes 8 4 s = hexN 4 chk.toNat)
    (hchk : chk = field16 (compute s.cfg s.hEca (fbBytes 0 8 s)))
    (hcr : fbByte 12 s = 0x0D) (hlf : fbByte 13 s = 0x0A) :
    ∃ c, processShort s = acceptFrame (shortKind s.hKind) ((BitVec.ofNat 8 code).setWidth 12) false []
      { s with hCode := BitVec.ofNat 8 code, hChk := c } := by
  obtain ⟨c, hlatch, hc⟩ := latchCheck_hexN (s := { s with hCode := BitVec.ofNat 8 code }) hfield
  have hok := checkOk_field hm (hc.imp_right (·.trans hchk))
  have hterm : shortTermOk s = true := by rw [shortTermOk, hcr, hlf, termOk_crlf, Bool.or_true]
  refine ⟨c, ?_⟩
  simp only [processShort, hcode, hlatch]
  exact (if_pos hok).trans (if_pos hterm)

/-- A code with its check field and terminator, once taken, is accepted (42_decoder.md R250, R256, R257). -/
theorem Reading.decoded_processShort {code dev : Nat} {chk : BitVec 16}
    (h : Reading cfg (got ++ (hexN 2 code ++ trailerBytes chk)) [] s) (hgot : got.length = 6) (hcode : code < 16 ^ 2)
    (hh : HeaderIs k a dev s) (hk : kindWait k = .waitShort) (hm : cfg.cs16Compare = .masked16)
    (hchk : chk = field16 (compute cfg a (got ++ hexN 2 code))) :
    Decoded k (BitVec.ofNat 12 dev) (BitVec.ofNat 12 code) false [] a (processShort s) := by
  obtain ⟨hkind, rfl, hdev⟩ := hh
  obtain ⟨hshort, -⟩ := kind_of_waitShort hk
  have hdigits := h.fbBytes_eq rfl hgot (length_hexN 2 code)
  rw [← List.append_assoc] at h
  obtain ⟨hcov, hfield, hcr, hlf⟩ := h.trailer (n := 8) (by rw [List.length_append, hgot, length_hexN]) rfl rfl
  have hcol : (BitVec.ofNat 8 code).setWidth 12 = BitVec.ofNat 12 code :=
    BitVec.eq_of_toNat_eq (by simp; omega)
  have hparse : parseHex s.cfg.hexLowerOk (fbBytes 6 2 s) = some code := by
    rw [hdigits]
    exact parseHexFrom_zero_hexN _ hcode
  obtain ⟨c, hprocess⟩ := processShort_accepts (h.config ▸ hm) hparse hfield (by rw [hcov, h.config]; exact hchk) hcr hlf
  rw [hprocess, hkind, hshort, hcol]
  exact ⟨rfl, rfl, h.rx, rfl, congrArg some hdev, rfl, rfl, rfl, rfl⟩

/-- The short wait takes and accepts the rest of an encoded frame. -/
theorem Reading.step_short {code dev : Nat} {chk : BitVec 16}
    (h : Reading cfg got (hexN 2 code ++ trailerBytes chk) s) (hgot : got.length = 6) (hst : s.st = .waitShort)
    (hneed : s.need = 8) (hcode : code < 16 ^ 2) (hh : HeaderIs k a dev s)
    (hk : kindWait k = .waitShort) (hm : cfg.cs16Compare = .masked16)
    (hchk : chk = field16 (compute cfg a (got ++ hexN 2 code))) :
    ∃ u, step s = .next u ∧ Decoded k (BitVec.ofNat 12 dev) (BitVec.ofNat 12 code) false [] a u := by
  have hchunk : (hexN 2 code ++ trailerBytes chk).length = 8 := by simp [length_trailerBytes]
  rw [← List.append_nil (hexN 2 code ++ _)] at h
  exact ⟨_, h.step_poll (by rw [receiveStep, hst]) (hneed.trans hchunk.symm) (by rw [hgot, hchunk]; decide),
    h.after_chunkRead.decoded_processShort hgot hcode hh hk hm hchk⟩

/-! ## Whole frames -/

/-- A frame by the waits that take it (41_encoder.md R182). -/
theorem frameBytes_eq (cfg : Params) (k : Kind) (a : Alg) (dev : Word) (body : List Byte) :
    frameBytes cfg k a dev body = sentinelByte :: (headerBytes k a (fit cfg.fieldOverflow 12 dev.toNat) ++
      (body ++ trailerBytes (field16 (compute cfg a (coveredBytes cfg k a dev body))))) := by
  simp [frameBytes, coveredBytes, headerBytes, trailerBytes]

/-- The scan and the header wait, which take every frame alike, leave its body and its trailer. -/
theorem Reading.takes_header {dev : Word} {body : List Byte} (h : Reading cfg [] (frameBytes cfg k a dev body) s)
    (hst : s.st = .scan) :
    let d := fit cfg.fieldOverflow 12 dev.toNat
    ∃ u chk, Reaches 2 s u ∧ u.st = kindWait k ∧ u.need = kindNeed k ∧ HeaderIs k a d u ∧
      Reading cfg (sentinelByte :: headerBytes k a d) (body ++ trailerBytes chk) u ∧
      chk = field16 (compute cfg a (sentinelByte :: headerBytes k a d ++ body)) := by
  rw [frameBytes_eq] at h
  obtain ⟨u, hu, hread, hscanned, hneed⟩ := h.step_scan hst
  obtain ⟨v, hv, hread, hwait, hneed, hh⟩ := hread.step_header hscanned hneed (fit_lt _ _ _)
  exact ⟨v, _, (Reaches.one hv).succ hu, hwait, hneed, hh, hread, rfl⟩

/-- A Request or Response, delivered whole, is decoded in four steps after the accept step. -/
theorem Reading.decodes_long {dev lreq : Word} {pbuf : List Byte}
    (h : Reading cfg [] (frameBytes cfg k a dev (longBody cfg lreq pbuf)) s) (hst : s.st = .scan)
    (hk : kindWait k = .waitLen) (hm : cfg.cs16Compare = .masked16) :
    let l := effectiveLength cfg.fieldOverflow lreq pbuf
    ∃ u, Reaches 4 s u ∧ Decoded k (BitVec.ofNat 12 (fit cfg.fieldOverflow 12 dev.toNat)) (BitVec.ofNat 12 l) true
      (pbuf.take l) a u := by
  intro l
  have hl : l < 2 ^ 12 := effectiveLength_lt _ _ _
  have hlen : (pbuf.take l).length = l := List.length_take_of_le (effectiveLength_le _ _ _)
  have hbody : longBody cfg lreq pbuf = hexN 3 l ++ pbuf.take l := rfl
  obtain ⟨-, hkindNeed⟩ := kind_of_waitLen hk
  obtain ⟨u, chk, hu, hwait, hneed, hh, hread, hchk⟩ := h.takes_header hst
  rw [hbody, List.append_assoc] at hread
  rw [hbody, ← List.append_assoc] at hchk
  obtain ⟨v, hv, hread, hwait, hneed, hcol, hh⟩ :=
    hread.step_length (by simp [headerBytes]) (hwait.trans hk) (hneed.trans hkindNeed) hl hh
  have hcolNat : v.hLen.toNat = (pbuf.take l).length := by
    rw [hcol, BitVec.toNat_ofNat, Nat.mod_eq_of_lt hl, hlen]
  obtain ⟨w, hw, hdec⟩ :=
    hread.step_body (by simp [headerBytes]) hwait (by rw [hneed, hlen]) hcolNat hh hk hm hchk
  exact ⟨w, hu.trans ((Reaches.one hw).succ hv), hcol ▸ hdec⟩

/-- An Interrupt or CommError, delivered whole, is decoded in three steps after the accept step. -/
theorem Reading.decodes_short {dev x : Word}
    (h : Reading cfg [] (frameBytes cfg k a dev (shortBody cfg x)) s) (hst : s.st = .scan)
    (hk : kindWait k = .waitShort) (hm : cfg.cs16Compare = .masked16) :
    ∃ u, Reaches 3 s u ∧ Decoded k (BitVec.ofNat 12 (fit cfg.fieldOverflow 12 dev.toNat))
      (BitVec.ofNat 12 (fit cfg.fieldOverflow 8 x.toNat)) false [] a u := by
  obtain ⟨-, hkindNeed⟩ := kind_of_waitShort hk
  obtain ⟨u, chk, hu, hwait, hneed, hh, hread, hchk⟩ := h.takes_header hst
  obtain ⟨w, hw, hdec⟩ := hread.step_short (by simp [headerBytes]) (hwait.trans hk) (hneed.trans hkindNeed)
    (fit_lt _ _ _) hh hk hm hchk
  exact ⟨w, hu.trans (Reaches.one hw), hdec⟩

/-- The bytes an encode on an open channel adds to `TX` are its frame. -/
theorem eq_frameBytes_of_tx {dev : Word} {body frame : List Byte} (ho : s.chanOpen = true)
    (htx : (encodeFrame k a dev body s).tx = s.tx ++ frame) : frame = frameBytes s.cfg k a dev body := by
  rw [encodeFrame, if_pos ho] at htx
  exact (List.append_cancel_left htx).symm

end Sys2Proof.Machine

open Sys2Proof Sys2Proof.Machine

/-- Settles O51: the receive takes the frame of an encode field by field, and each field reads back. -/
theorem decodingAnEncodedFrameGivesItBack : Obligations.DecodingAnEncodedFrameGivesItBack := by
  intro s t r frame p alg dev x pbuf ho hm hf hcfg hr hro hwf hrx he hq htx dev12 l code8
  obtain ⟨r', hstart, hread, hst⟩ := step_decRecv hr he hq hro (hcfg ▸ hf) hwf
  rw [hcfg, hrx] at hread
  have hlong : ∀ k, kindWait k = .waitLen → encodeFrame k alg dev (longBody s.cfg x pbuf) s = t →
      ∃ u, Reaches 5 r u ∧ Decoded k dev12 (BitVec.ofNat 12 l) true (pbuf.take l) alg u := by
    rintro k hk rfl
    obtain rfl := eq_frameBytes_of_tx ho htx
    obtain ⟨u, hrun, hu⟩ := hread.decodes_long hst hk hm
    exact ⟨u, hrun.succ hstart, hu⟩
  have hshort : ∀ k, kindWait k = .waitShort → encodeFrame k alg dev (shortBody s.cfg x) s = t →
      ∃ u, Reaches 4 r u ∧ Decoded k dev12 code8 false [] alg u := by
    rintro k hk rfl
    obtain rfl := eq_frameBytes_of_tx ho htx
    obtain ⟨u, hrun, hu⟩ := hread.decodes_short hst hk hm
    exact ⟨u, hrun.succ hstart, hu⟩
  exact ⟨fun hx ht => hlong .request rfl (Host.Outcome.next.inj ((exec_encReq_executing hx).symm.trans ht)),
    fun hx ht => hlong .response rfl (Host.Outcome.next.inj ((exec_encRsp_executing hx).symm.trans ht)),
    fun hx ht => hshort .interrupt rfl (Host.Outcome.next.inj ((exec_encSip_executing hx).symm.trans ht)),
    fun hx ht => hshort .commError rfl (Host.Outcome.next.inj ((exec_encCep_executing hx).symm.trans ht))⟩
end

section
/-! SUPPORT. A receive's scan, its poll and its end, case by case (42_decoder.md R225, R230, R260). -/

namespace Sys2Proof.Machine

variable {s t u : State} {w : DecState} {process : State → State}

/-! ## What a receive leaves alone, and how it ends -/

theorem DecoderOnly.refl (s : State) : DecoderOnly s s := rfl

/-- What `DecoderOnly` leaves as it was, beside `DecoderOnly.kept`. -/
theorem DecoderOnly.outside (h : DecoderOnly s t) :
    t.op = s.op ∧ t.ok = s.ok ∧ t.tx = s.tx ∧ t.events = s.events ∧ t.supply = s.supply := by
  rw [DecoderOnly] at h
  rw [h]
  exact ⟨rfl, rfl, rfl, rfl, rfl⟩

/-- A receive's step leaves `STATUS.OP`, `TX` and the inputs alone. -/
theorem ReceiveCase.outside (h : ReceiveCase s t) :
    t.op = s.op ∧ t.tx = s.tx ∧ t.events = s.events ∧ t.supply = s.supply := by
  cases h with
  | goesOn h =>
    obtain ⟨hop, -, hrest⟩ := h.outside
    exact ⟨hop, hrest⟩
  | rejected c u hc hu ht =>
    obtain ⟨hop, -, hrest⟩ := hu.outside
    subst ht
    exact ⟨hop, hrest⟩
  | accepted k col present payload u hu ht =>
    obtain ⟨hop, -, hrest⟩ := hu.outside
    subst ht
    exact ⟨hop, hrest⟩

theorem DecoderOnly.causeAfter_eq (h : DecoderOnly s u) (c : Cause) : causeAfter u c = causeAfter s c := by
  rw [DecoderOnly] at h
  rw [h]
  rfl

/-- `reject` is the end of a receive that R300 of 60_exceptions.md describes. -/
theorem DecoderOnly.rejectedWith (h : DecoderOnly s u) (c : Cause) : RejectedWith c s (reject c u) :=
  ⟨rfl, rfl, rfl, ⟨rfl, rfl, rfl, rfl, rfl, rfl⟩, h.causeAfter_eq c⟩

theorem rejectedWith_of_eq {c : Cause} (ht : t = reject c u) (hu : DecoderOnly s u) : RejectedWith c s t :=
  ht ▸ hu.rejectedWith c

theorem rejectedWith_reject (c : Cause) (u : State) : RejectedWith c u (reject c u) :=
  (DecoderOnly.refl u).rejectedWith c

theorem sameDecoder_reject (c : Cause) (u : State) : SameDecoder { u with st := .idle } (reject c u) :=
  SameDecoder.refl { u with st := .idle }

/-! ## What a read leaves alone -/

@[simp] theorem chanRead_cfg (n : Nat) (s : State) : (chanRead n s).2.cfg = s.cfg := by
  obtain ⟨rx, tape, c, h⟩ := chanRead_snd n s
  rw [h]

@[simp] theorem chanRead_cfgRto (n : Nat) (s : State) : (chanRead n s).2.cfgRto = s.cfgRto := by
  obtain ⟨rx, tape, c, h⟩ := chanRead_snd n s
  rw [h]

@[simp] theorem chanRead_fb (n : Nat) (s : State) : (chanRead n s).2.fb = s.fb := by
  obtain ⟨rx, tape, c, h⟩ := chanRead_snd n s
  rw [h]

@[simp] theorem chanRead_need (n : Nat) (s : State) : (chanRead n s).2.need = s.need := by
  obtain ⟨rx, tape, c, h⟩ := chanRead_snd n s
  rw [h]

@[simp] theorem chanRead_ticks (n : Nat) (s : State) : (chanRead n s).2.ticks = s.ticks := by
  obtain ⟨rx, tape, c, h⟩ := chanRead_snd n s
  rw [h]

/-! ## The scan -/

theorem exec_decRecv_scan (hx : Executing .decRecv s) (hst : s.st = .scan) : exec .decRecv s = .next (scanStep s) := by
  rw [exec_decRecv_executing hx, receiveStep, hst]

theorem scanStep_noData (h : (chanRead 1 s).1 = []) : scanStep s = reject .noData (chanRead 1 s).2 := by
  rw [scanStep, h]
  rfl

theorem scanStep_drops {b : Byte} {bs : List Byte} (h : (chanRead 1 s).1 = b :: bs) (hb : b ≠ 0x21) :
    scanStep s = (chanRead 1 s).2 := by
  rw [scanStep, h]
  exact if_neg hb

/-! ## The poll -/

/-- The waits, and how each processes a whole read (42_decoder.md R225). -/
def waitProcess : List (DecState × (State → State)) :=
  [(.waitHdr, processHeader), (.waitLen, processLength), (.waitBody, processBody), (.waitShort, processShort)]

/-- A property of every wait is one of each of the four. -/
theorem forall_waitProcess {P : DecState → (State → State) → Prop} (hdr : P .waitHdr processHeader)
    (len : P .waitLen processLength) (body : P .waitBody processBody) (short : P .waitShort processShort)
    (h : (w, process) ∈ waitProcess) : P w process := by
  simp only [waitProcess, List.mem_cons, Prod.mk.injEq, List.not_mem_nil, or_false] at h
  obtain ⟨rfl, rfl⟩ | ⟨rfl, rfl⟩ | ⟨rfl, rfl⟩ | ⟨rfl, rfl⟩ := h
  · exact hdr
  · exact len
  · exact body
  · exact short

/-- A receive polls in each wait. -/
theorem receiveStep_wait (h : (w, process) ∈ waitProcess) : s.st = w → receiveStep s = pollStep process s := by
  refine forall_waitProcess (P := fun w process => s.st = w → receiveStep s = pollStep process s) ?_ ?_ ?_ ?_ h
  all_goals
    intro hst
    rw [receiveStep, hst]

theorem exec_decRecv_wait (hx : Executing .decRecv s) (h : (w, process) ∈ waitProcess) (hst : s.st = w) :
    exec .decRecv s = pollStep process s := (exec_decRecv_executing hx).trans (receiveStep_wait h hst)

/-- A poll's read in `FB`, from where `FB` stood before it. -/
theorem fbAppend_chanRead (n : Nat) (s : State) : fbAppend (chanRead n s).1 (chanRead n s).2 =
    { (chanRead n s).2 with
      fb := Memory.writeBytes s.fb s.fbn (chanRead n s).1, fbn := s.fbn + (chanRead n s).1.length } := by
  rw [fbAppend, chanRead_fbn, chanRead_fb]

section
variable (hn : s.need ≤ chanAvail s) (hfit : s.fbn + s.need ≤ Config.frameMax)
include hn hfit

theorem pollStep_short (hlen : (chanRead s.need s).1.length < s.need) : pollStep process s =
    .next (reject .shortRead (fbAppend (chanRead s.need s).1 (chanRead s.need s).2)) := by
  rw [pollStep, if_pos hn, polled, chanRead_fbn, chanRead_need, if_neg (by omega), if_pos hlen]

theorem pollStep_whole (hlen : s.need ≤ (chanRead s.need s).1.length) : pollStep process s =
    .next (process (fbAppend (chanRead s.need s).1 (chanRead s.need s).2)) := by
  have hmost := length_chanRead_le s.need s
  rw [pollStep, if_pos hn, polled, chanRead_fbn, chanRead_need, if_neg (by omega), if_neg (by omega)]

end

/-- The codec's turn of a receive to which nothing more comes. -/
theorem step_receive (hx : Executing .decRecv s) (he : s.events = [] ∨ ∃ k es, s.events = .awaitDone k :: es)
    (hq : s.supply = .quiet) : step s = receiveStep s := by
  rw [step_executing hx he, supplyNext_quiet s hq, exec_decRecv_executing hx]

end Sys2Proof.Machine

open Sys2Proof Sys2Proof.Machine

/-- Settles O33, reading the two tests off their definition. -/
theorem terminatorTestIsLenient : Obligations.TerminatorTestIsLenient := by
  intro cr lf
  simp [termOk]

/-- Settles O26, by what the read returned. -/
theorem scanStepFindsTheSentinel : Obligations.ScanStepFindsTheSentinel := by
  intro s hx hst u
  have hscan := exec_decRecv_scan hx hst
  refine ⟨fun hnone => ?_, fun bs hread => ?_, fun b bs hread hb => ?_⟩
  · rw [scanStep_noData hnone] at hscan
    exact ⟨_, hscan, rejectedWith_reject _ _, sameDecoder_reject _ _, rfl⟩
  · rw [hscan, scanStep_sentinel hread, ← chanRead_cfg 1 s, ← chanRead_ticks 1 s]
    rfl
  · rw [hscan, scanStep_drops hread hb]

/-- Settles O27: every wait polls, and each clause is one outcome of a poll. -/
theorem pollTestsBytesThenBudgetThenSleeps : Obligations.PollTestsBytesThenBudgetThenSleeps := by
  intro s w process hw hx hst hfit r u
  have hpoll := exec_decRecv_wait hx hw hst
  have hu : fbAppend r.1 r.2 = u := fbAppend_chanRead s.need s
  refine ⟨fun hn hlen => ?_, fun hn hlen => ?_, fun hn ht => ?_, fun hn ht => ?_⟩
  · rw [pollStep_short hn hfit hlen, hu] at hpoll
    exact ⟨_, hpoll, rejectedWith_reject _ _, sameDecoder_reject _ _⟩
  · rw [hpoll, pollStep_whole hn hfit hlen, hu]
  · rw [pollStep_expire hn ht] at hpoll
    exact ⟨_, hpoll, rejectedWith_reject _ _, sameDecoder_reject _ _, rfl⟩
  · rw [hpoll, pollStep_sleep hn ht]

/-- Settles O50: the ticks count the polls, until they pass the budget. -/
theorem stalledWaitExpiresAfterItsBudget : Obligations.StalledWaitExpiresAfterItsBudget := by
  intro s hx hst he hq ht hn
  obtain ⟨⟨w, process⟩, hw, hst⟩ := List.mem_map.mp (show s.st ∈ waitProcess.map Prod.fst from hst)
  have hpoll : ∀ k, step { s with ticks := k } = pollStep process { s with ticks := k } := fun k =>
    (step_receive (s := { s with ticks := k }) hx (.inl he) hq).trans (receiveStep_wait hw hst.symm)
  have hstart : s = { s with ticks := 0 } := by rw [← ht]
  have hsleep : ∀ k ≤ s.cfgRto + 1, Reaches k s { s with ticks := k } := by
    intro k hk
    induction k with
    | zero => exact congrArg Host.Outcome.next hstart
    | succ k ih =>
      exact (ih (by omega)).trans (Reaches.one ((hpoll k).trans (pollStep_sleep hn (Nat.le_of_succ_le_succ hk))))
  have hlast := (hpoll (s.cfgRto + 1)).trans (pollStep_expire hn (Nat.lt_succ_self _))
  have hticks : DecoderOnly s { s with ticks := s.cfgRto + 1 } := rfl
  exact ⟨hsleep, _, (hsleep _ (Nat.le_refl _)).trans (Reaches.one hlast), hticks.rejectedWith _, rfl, rfl⟩

/-- Settles O34, by the three ways a receive's step can end. -/
theorem receiveEndsInAFrameOrInTimeout : Obligations.ReceiveEndsInAFrameOrInTimeout := by
  intro s t hx h
  have hcase := receiveStep_next ((exec_decRecv_executing hx).symm.trans h)
  obtain ⟨-, hrto, hopen, hcheck, -⟩ := hcase.kept
  obtain ⟨hop, htx, -, -⟩ := hcase.outside
  refine ⟨htx, hcheck, hopen, hrto, hop, ?_⟩
  cases hcase with
  | goesOn h =>
    obtain ⟨-, hphase, -⟩ := h.kept
    obtain ⟨-, hok, -⟩ := h.outside
    exact .inl ⟨hphase.trans hx, hok, h.sameResults⟩
  | accepted k col present payload u hu ht =>
    subst ht
    exact .inr (.inl ⟨rfl, rfl, rfl, hu.causeAfter_eq .accepted, k, u.hDev, col, present, payload, u.hEca,
      rfl, rfl, rfl, rfl, rfl, rfl⟩)
  | rejected c u hc hu ht =>
    subst ht
    exact .inr (.inr ⟨c, hc, hu.rejectedWith c⟩)
end

section
/-! SUPPORT. A wait whose bytes are there: what it takes, where the fields then stand in `FB`, and the outcomes of the
checks on them (42_decoder.md R225, R233 to R235, R240, R245 to R247, R250 to R257). -/

namespace Sys2Proof.Machine

variable {s t u v : State} {w : DecState} {process : State → State} {n : Nat} {chunk rest : List Byte} {a : Alg}

/-! ## Processing leaves the bytes where they are -/

/-- From `u` to `t` the streams, `FB`, `FBN`, `CHECK_OUT` and `STATUS.OP` stay as they are. -/
def SameBytes (u t : State) : Prop :=
  SameMemory u t ∧ t.fbn = u.fbn ∧ t.checkOut = u.checkOut ∧ t.op = u.op

theorem HeaderOnly.sameBytes (h : HeaderOnly u v) : SameBytes u v := by
  rw [HeaderOnly] at h
  rw [h]
  exact ⟨⟨rfl, rfl, rfl⟩, rfl, rfl, rfl⟩

/-- Whatever comes of a whole read, no byte moves. -/
theorem sameBytes_process (h : (w, process) ∈ waitProcess) (u : State) : SameBytes u (process u) := by
  refine forall_waitProcess (P := fun _ process => SameBytes u (process u)) ?_ ?_ ?_ ?_ h
  · obtain ⟨v, ⟨c, -, h⟩ | ⟨k, h⟩, hv⟩ := processHeader_cases u <;> rw [h] <;> exact hv.sameBytes
  · obtain h | ⟨l, -, h⟩ := processLength_cases u <;> rw [h] <;> exact HeaderOnly.sameBytes (v := u) rfl
  · obtain ⟨v, ⟨c, -, h⟩ | h, hv⟩ := processBody_cases u <;> rw [h] <;> exact hv.sameBytes
  · obtain ⟨v, ⟨c, -, h⟩ | h, hv⟩ := processShort_cases u <;> rw [h] <;> exact hv.sameBytes

/-! ## A wait whose bytes are there -/

/-- A receive in the wait `w`, with `n` bytes of the frame taken, finds the bytes `chunk` that it needs at the head of
`RX`, and reads are full. -/
structure Finds (w : DecState) (n : Nat) (chunk rest : List Byte) (s : State) : Prop where
  executing : Executing .decRecv s
  st : s.st = w
  fbn : s.fbn = n
  need : s.need = chunk.length
  wf : Memory.wf s.fb = true
  chanOpen : s.chanOpen = true
  readFull : s.cfg.chanReadFull = true
  rx : s.rx = chunk ++ rest
  fits : n + chunk.length ≤ Config.frameMax

/-- Such a wait takes and processes its bytes. -/
theorem Finds.exec_eq (h : Finds w n chunk rest s) (hw : (w, process) ∈ waitProcess) :
    exec .decRecv s = .next (process (chunkRead chunk rest s)) := by
  have henough : s.need ≤ s.rx.length := by rw [h.rx, h.need, List.length_append]; omega
  have htake : s.rx.take s.need = chunk := by rw [h.rx, h.need, List.take_left]
  have hdrop : s.rx.drop s.need = rest := by rw [h.rx, h.need, List.drop_left]
  rw [exec_decRecv_wait h.executing hw h.st,
    pollStep_full h.readFull h.chanOpen henough (by rw [h.fbn, h.need]; exact h.fits), htake, hdrop, chunkRead]

/-- The bytes it consumes, and what it leaves alone. -/
theorem Finds.consumes (h : Finds w n chunk rest s) (hw : (w, process) ∈ waitProcess) :
    let t := process (chunkRead chunk rest s)
    t.rx = rest ∧ t.fbn = n + chunk.length ∧ t.tx = s.tx ∧ t.checkOut = s.checkOut ∧ t.op = s.op := by
  obtain ⟨⟨hrx, htx, -⟩, hfbn, hcheck, hop⟩ := sameBytes_process hw (chunkRead chunk rest s)
  exact ⟨hrx, hfbn.trans (congrArg (· + chunk.length) h.fbn), htx, hcheck, hop⟩

/-- The decoder's registers and `FB` are those of a receive to which nothing more comes. -/
theorem Finds.reading (h : Finds w n chunk rest s) : Reading s.cfg (fbBytes 0 n s ++ chunk) rest
    (chunkRead chunk rest { s with events := [], supply := .quiet }) := by
  have hlen : (fbBytes 0 n s).length = n := Memory.length_readBytes _ _ _
  exact Reading.after_chunkRead ⟨rfl, h.executing, rfl, rfl, h.chanOpen, h.readFull, h.rx, h.fbn.trans hlen.symm,
    by rw [hlen]; rfl, h.wf⟩

/-- A field of the frame, once the wait has taken its bytes. -/
theorem Finds.fbBytes_eq {before field after : List Byte} {i len : Nat} (h : Finds w n chunk rest s)
    (hsplit : fbBytes 0 n s ++ chunk = before ++ (field ++ after)) (hi : before.length = i)
    (hlen : field.length = len) : fbBytes i len (chunkRead chunk rest s) = field :=
  h.reading.fbBytes_eq hsplit hi hlen

theorem Memory.getD_readBytes {m : Memory} {a i n : Nat} (hi : i < n) (d : Byte) :
    (Memory.readBytes m a n).getD i d = Memory.read m (a + i) := by
  induction n generalizing a i with
  | zero => cases hi
  | succ n ih =>
    cases i with
    | zero => rfl
    | succ i =>
      rw [Memory.readBytes, List.getD_cons_succ, ih (Nat.lt_of_succ_lt_succ hi), Nat.add_right_comm, Nat.add_assoc]

/-- One of the bytes of the frame, once the wait has taken its bytes. -/
theorem Finds.fbByte_eq {before after : List Byte} {b : Byte} {i : Nat} (h : Finds w n chunk rest s)
    (hsplit : fbBytes 0 n s ++ chunk = before ++ b :: after) (hi : before.length = i) :
    fbByte i (chunkRead chunk rest s) = b :=
  h.reading.fbByte_eq hsplit hi

/-- Every byte of the frame, once the wait has taken its bytes. -/
theorem Finds.fbByte_getD {i : Nat} (h : Finds w n chunk rest s) (hi : i < n + chunk.length) :
    fbByte i (chunkRead chunk rest s) = (fbBytes 0 n s ++ chunk).getD i 0 := by
  have hlen : (fbBytes 0 n s ++ chunk).length = n + chunk.length := by
    rw [List.length_append, fbBytes, Memory.length_readBytes]
  have hread := h.reading.fb
  rw [hlen] at hread
  rw [← hread, fbBytes, Memory.getD_readBytes hi, Nat.zero_add]
  rfl

/-- Processing leaves it there. -/
theorem Finds.fbByte_process {i : Nat} (h : Finds w n chunk rest s) (hw : (w, process) ∈ waitProcess)
    (hi : i < n + chunk.length) :
    fbByte i (process (chunkRead chunk rest s)) = (fbBytes 0 n s ++ chunk).getD i 0 := by
  obtain ⟨⟨-, -, hfb⟩, -⟩ := sameBytes_process hw (chunkRead chunk rest s)
  rw [← h.fbByte_getD hi, fbByte, hfb, fbByte]

/-- Where the covered bytes, the field before the check field, the check field and the terminator stand, once the last
wait of a frame has taken them. -/
theorem Finds.trailer {field chk : List Byte} {cr lf : Byte} {len m i j : Nat}
    (h : Finds w n (field ++ chk ++ [cr, lf]) rest s) (hfield : field.length = len) (hchk : chk.length = 4)
    (hm : m = n + len) (hi : i = m + 4) (hj : j = m + 5) :
    let u := chunkRead (field ++ chk ++ [cr, lf]) rest s
    fbBytes n len u = field ∧ fbBytes 0 m u = fbBytes 0 n s ++ field ∧ fbBytes m 4 u = chk ∧ fbByte i u = cr ∧
      fbByte j u = lf := by
  subst hm hi hj
  have hgot : (fbBytes 0 n s).length = n := Memory.length_readBytes _ _ _
  have hcov : (fbBytes 0 n s ++ field).length = n + len := by rw [List.length_append, hgot, hfield]
  refine ⟨h.fbBytes_eq (after := chk ++ [cr, lf]) ?_ hgot hfield,
    h.fbBytes_eq (before := []) (after := chk ++ [cr, lf]) ?_ rfl hcov,
    h.fbBytes_eq (after := [cr, lf]) ?_ hcov hchk,
    h.fbByte_eq (before := fbBytes 0 n s ++ field ++ chk) (after := [lf]) ?_ ?_,
    h.fbByte_eq (before := fbBytes 0 n s ++ field ++ chk ++ [cr]) (after := []) ?_ ?_⟩
  case refine_5 => rw [List.length_append, hcov, hchk]
  case refine_7 => rw [List.length_append, List.length_append, hcov, hchk]; rfl
  all_goals simp

/-! ## The header -/

theorem processHeader_hKind (u : State) : (processHeader u).hKind = fbByte 1 u := by
  simp only [processHeader]
  split
  · rfl
  · split
    · rfl
    · split
      · rfl
      · rename_i hk
        exact (eq_kindChar_of_kindOfChar hk).symm

theorem processHeader_badEca (ha : ecaOfChar (fbByte 2 u) = none) :
    processHeader u = reject .badEca { u with hKind := fbByte 1 u } := by
  simp only [fbByte] at ha
  simp only [processHeader, fbByte, ha]

theorem processHeader_badHex (ha : fbByte 2 u = ecaChar a) (hv : parseHex u.cfg.hexLowerOk (fbBytes 3 3 u) = none) :
    processHeader u = reject .badHex { u with hKind := fbByte 1 u, hEca := a } := by
  simp only [fbByte, fbBytes] at ha hv
  simp only [processHeader, fbByte, fbBytes, takeEca, ha, hv, ecaOfChar_ecaChar]

theorem processHeader_badKind {d : Nat} (ha : fbByte 2 u = ecaChar a)
    (hv : parseHex u.cfg.hexLowerOk (fbBytes 3 3 u) = some d) (hk : kindOfChar (fbByte 1 u) = none) :
    processHeader u = reject .badKind { u with hKind := fbByte 1 u, hEca := a, hDev := BitVec.ofNat 12 d } := by
  simp only [fbByte, fbBytes] at ha hv hk
  simp only [processHeader, fbByte, fbBytes, takeEca, ha, hv, hk, ecaOfChar_ecaChar]

/-- An accepted header enters the wait of its kind, the header registers holding its fields. -/
theorem processHeader_entersWait {k : Kind} {d : Nat} (hk : fbByte 1 u = kindChar k) (ha : fbByte 2 u = ecaChar a)
    (hd : parseHex u.cfg.hexLowerOk (fbBytes 3 3 u) = some d) : processHeader u =
      enterWait (kindWait k) (kindNeed k) { u with hKind := kindChar k, hEca := a, hDev := BitVec.ofNat 12 d } :=
  processHeader_accepts hk ha hd

/-- The kind characters are those that lead to the long and to the short format (30_encoding.md R92). -/
theorem exists_eq_kindChar_iff {c : Byte} : (∃ k, c = kindChar k) ↔ LongChar c ∨ ShortChar c := by
  constructor
  · rintro ⟨_ | _ | _ | _, rfl⟩
    · exact .inl (.inl rfl)
    · exact .inl (.inr rfl)
    · exact .inr (.inl rfl)
    · exact .inr (.inr rfl)
  · rintro ((rfl | rfl) | (rfl | rfl))
    · exact ⟨.request, rfl⟩
    · exact ⟨.response, rfl⟩
    · exact ⟨.interrupt, rfl⟩
    · exact ⟨.commError, rfl⟩

theorem kindOfChar_eq_none {c : Byte} (h : ¬(LongChar c ∨ ShortChar c)) : kindOfChar c = none :=
  Option.eq_none_iff_forall_ne_some.mpr fun k hk => h (exists_eq_kindChar_iff.mp ⟨k, kindOfChar_eq_some_iff.mp hk⟩)

theorem wait_of_longChar {k : Kind} (h : LongChar (kindChar k)) : kindWait k = .waitLen ∧ kindNeed k = 3 := by
  cases k with
  | request | response => exact ⟨rfl, rfl⟩
  | interrupt | commError => simp [LongChar, kindChar] at h

theorem wait_of_shortChar {k : Kind} (h : ShortChar (kindChar k)) : kindWait k = .waitShort ∧ kindNeed k = 8 := by
  cases k with
  | request | response => simp [ShortChar, kindChar] at h
  | interrupt | commError => exact ⟨rfl, rfl⟩

/-! ## The length -/

theorem processLength_badHex (h : parseHex u.cfg.hexLowerOk (fbBytes 6 3 u) = none) :
    processLength u = reject .badHex u := by
  rw [processLength, h]

theorem processLength_header (u : State) : (processLength u).hKind = u.hKind ∧ (processLength u).hEca = u.hEca ∧
    (processLength u).hDev = u.hDev := by
  obtain h | ⟨l, -, h⟩ := processLength_cases u <;> rw [h] <;> exact ⟨rfl, rfl, rfl⟩

/-- A field of three digits fits the register that holds it. -/
theorem toNat_ofNat_parsed {lowerOk : Bool} {d1 d2 d3 : Byte} {v : Nat}
    (h : parseHex lowerOk [d1, d2, d3] = some v) :
    (BitVec.ofNat 12 v).toNat = v := by
  have hlt : v < 16 ^ 3 := parseHex_lt h
  exact (BitVec.toNat_ofNat v 12).trans (Nat.mod_eq_of_lt hlt)

/-! ## The check field -/

theorem parsesCheck_iff : parsesCheck u = true ↔ u.hEca ≠ .none ∨ u.cfg.noneCheckParse = true := by
  rw [parsesCheck, Bool.or_eq_true, decide_eq_true_iff]

theorem latchCheck_eq_none {i : Nat} (hp : parsesCheck u = true)
    (h : parseHex u.cfg.hexLowerOk (fbBytes i 4 u) = none) : latchCheck i u = none := by
  rw [latchCheck, if_pos hp, h]

/-- A check field that parses, where it is parsed, is latched, unless the parameters leave it unread under ECA None
(42_decoder.md R245). -/
theorem latchCheck_parsed {i : Nat} {c : BitVec 16}
    (h : parsesCheck u = true → parseHex u.cfg.hexLowerOk (fbBytes i 4 u) = some c.toNat) :
    ∃ d, latchCheck i u = some { u with hChk := d } ∧
      ∀ cov, checkOk u.cfg u.hEca cov d = checkOk u.cfg u.hEca cov c := by
  unfold latchCheck
  split
  · rename_i hp
    rw [h hp]
    exact ⟨_, rfl, fun _ => by rw [BitVec.ofNat_toNat, BitVec.setWidth_eq]⟩
  · rename_i hnot
    have heca : u.hEca = .none := by by_contra hne; exact hnot (parsesCheck_iff.mpr (.inl hne))
    exact ⟨u.hChk, rfl, fun _ => by rw [heca, checkOk, checkOk]⟩

/-! ## The end of a body -/

/-- How a body ends once its fields are parsed: integrity comes first, then the terminator, then acceptance
(60_exceptions.md R303). -/
def verdict (ok term : Bool) (accepted v : State) : State :=
  if ok then if term then accepted else reject .badTerm v else reject .integrity v

/-- The three verdicts. -/
theorem verdict_spec {ok term present : Bool} {k : Kind} {col : BitVec 12} {payload : List Byte}
    (ht : t = verdict ok term (acceptFrame k col present payload v) v) (hv : DecoderOnly s v) :
    (ok = false → RejectedWith .integrity s t) ∧ (ok = true → term = false → RejectedWith .badTerm s t) ∧
    (ok = true → term = true → t.phase = .done ∧ t.ok = true ∧ t.st = .idle ∧ t.diagCause = causeAfter s .accepted ∧
      FrameResult k v.hDev col present payload v.hEca t) := by
  subst ht
  refine ⟨?_, ?_, ?_⟩
  · rintro rfl
    exact hv.rejectedWith _
  · rintro rfl rfl
    exact hv.rejectedWith _
  · rintro rfl rfl
    exact ⟨rfl, rfl, rfl, hv.causeAfter_eq _, rfl, rfl, rfl, rfl, rfl, rfl⟩

theorem processBody_badHex (hp : parsesCheck u = true)
    (h : parseHex u.cfg.hexLowerOk (fbBytes (9 + u.hLen.toNat) 4 u) = none) : processBody u = reject .badHex u := by
  rw [processBody, latchCheck_eq_none hp h]

/-- The verdict on a Request or Response whose check field parses, where it is parsed (42_decoder.md R245, R247). -/
theorem processBody_verdict {l : Nat} {payload cov : List Byte} {cr lf : Byte} {c : BitVec 16} (hl : u.hLen.toNat = l)
    (hdata : fbBytes 9 l u = payload) (hcov : fbBytes 0 (9 + l) u = cov) (hcr : fbByte (13 + l) u = cr)
    (hlf : fbByte (14 + l) u = lf)
    (h : parsesCheck u = true → parseHex u.cfg.hexLowerOk (fbBytes (9 + l) 4 u) = some c.toNat) :
    ∃ d, processBody u = verdict (checkOk u.cfg u.hEca cov c) (termOk u.cfg.termRule cr lf)
      (acceptFrame (longKind u.hKind) u.hLen true payload { u with hChk := d }) { u with hChk := d } := by
  subst hl hdata hcov hcr hlf
  obtain ⟨d, hlatch, hcheck⟩ := latchCheck_parsed h
  refine ⟨d, ?_⟩
  rw [processBody, hlatch, ← hcheck]
  rfl

theorem processShort_badCode (h : parseHex u.cfg.hexLowerOk (fbBytes 6 2 u) = none) :
    processShort u = reject .badHex u := by
  rw [processShort, h]

theorem processShort_badCheck {code : Nat} (hcode : parseHex u.cfg.hexLowerOk (fbBytes 6 2 u) = some code)
    (hp : parsesCheck u = true) (h : parseHex u.cfg.hexLowerOk (fbBytes 8 4 u) = none) :
    processShort u = reject .badHex { u with hCode := BitVec.ofNat 8 code } := by
  have hlatch := latchCheck_eq_none (u := { u with hCode := BitVec.ofNat 8 code }) hp h
  simp only [processShort, hcode, hlatch]

/-- The verdict on an Interrupt or CommError whose fields parse (42_decoder.md R250, R257). -/
theorem processShort_verdict {cov : List Byte} {code : Byte} {c : BitVec 16} (hcov : fbBytes 0 8 u = cov)
    (hcode : parseHex u.cfg.hexLowerOk (fbBytes 6 2 u) = some code.toNat)
    (h : parsesCheck u = true → parseHex u.cfg.hexLowerOk (fbBytes 8 4 u) = some c.toNat) :
    ∃ d, processShort u = verdict (checkOk u.cfg u.hEca cov c) (shortTermOk u)
      (acceptFrame (shortKind u.hKind) (code.setWidth 12) false [] { u with hCode := code, hChk := d })
      { u with hCode := code, hChk := d } := by
  subst hcov
  obtain ⟨d, hlatch, hcheck⟩ := latchCheck_parsed (u := { u with hCode := code }) h
  have hreg : BitVec.ofNat 8 code.toNat = code := by rw [BitVec.ofNat_toNat, BitVec.setWidth_eq]
  refine ⟨d, ?_⟩
  simp only [processShort, hcode, hreg, hlatch]
  rw [← hcheck]
  rfl

/-- The terminator of an Interrupt or CommError is tested only under `P_SIPCEP_TERM_CHECK` (42_decoder.md R256). -/
theorem shortTermOk_iff : shortTermOk u = true ↔
    u.cfg.sipcepTermCheck = false ∨ termOk u.cfg.termRule (fbByte 12 u) (fbByte 13 u) = true := by
  rw [shortTermOk, Bool.or_eq_true, Bool.not_eq_true']

end Sys2Proof.Machine

open Sys2Proof Sys2Proof.Machine

/-- Settles O28: the three checks in their order, each with what the ones before it have latched. -/
theorem headerIsCheckedInOrder : Obligations.HeaderIsCheckedInOrder := by
  intro s k e d1 d2 d3 rest hx hst hfbn hneed hwf ho hf hrx
  have hw : (DecState.waitHdr, processHeader) ∈ waitProcess := .head _
  have h : Finds .waitHdr 1 [k, e, d1, d2, d3] rest s :=
    ⟨hx, hst, hfbn, hneed, hwf, ho, hf, hrx, by simp [Config.frameMax]⟩
  have hk : fbByte 1 (chunkRead [k, e, d1, d2, d3] rest s) = k := h.fbByte_eq (before := [_]) rfl rfl
  have he : fbByte 2 (chunkRead [k, e, d1, d2, d3] rest s) = e := h.fbByte_eq (before := [_, k]) rfl rfl
  have hdev : fbBytes 3 3 (chunkRead [k, e, d1, d2, d3] rest s) = [d1, d2, d3] :=
    h.fbBytes_eq (before := [_, k, e]) (after := []) rfl rfl rfl
  obtain ⟨hrest, hcount, htx, hcheck, hop⟩ := h.consumes hw
  refine ⟨_, h.exec_eq hw, hrest, hcount, (processHeader_hKind _).trans hk, htx, hcheck, hop,
    fun i hi => h.fbByte_process hw hi, fun hbad => ?_, fun a ha hbad => ?_, fun a v ha hv hbad => ?_,
    fun a v ha hv hgood => ?_⟩
  · exact rejectedWith_of_eq (processHeader_badEca (he.symm ▸ if_neg hbad)) rfl
  · exact rejectedWith_of_eq (processHeader_badHex (he.trans ha) (hdev.symm ▸ hbad)) rfl
  · have hkind := kindOfChar_eq_none hbad
    exact rejectedWith_of_eq (processHeader_badKind (he.trans ha) (hdev.symm ▸ hv) (hk.symm ▸ hkind)) rfl
  · obtain ⟨d, rfl⟩ := exists_eq_kindChar_iff.mpr hgood
    rw [processHeader_entersWait hk (he.trans ha) (hdev.symm ▸ hv)]
    exact ⟨rfl, rfl, ⟨rfl, rfl, rfl, rfl, rfl, rfl, rfl⟩, rfl, toNat_ofNat_parsed hv, wait_of_longChar,
      wait_of_shortChar, rfl⟩

/-- Settles O30: the field parses and sets the body wait, or it ends the receive. -/
theorem lengthFieldSetsTheBodyWait : Obligations.LengthFieldSetsTheBodyWait := by
  intro s l1 l2 l3 rest hx hst hfbn hneed hwf ho hf hrx
  have hw : (DecState.waitLen, processLength) ∈ waitProcess := .tail _ (.head _)
  have h : Finds .waitLen 6 [l1, l2, l3] rest s :=
    ⟨hx, hst, hfbn, hneed, hwf, ho, hf, hrx, by simp [Config.frameMax]⟩
  have hfield : fbBytes 6 3 (chunkRead [l1, l2, l3] rest s) = [l1, l2, l3] :=
    h.fbBytes_eq (after := []) rfl (Memory.length_readBytes _ _ _) rfl
  obtain ⟨hrest, hcount, htx, hcheck, -⟩ := h.consumes hw
  obtain ⟨hkind, heca, hdev⟩ := processLength_header (chunkRead [l1, l2, l3] rest s)
  refine ⟨_, h.exec_eq hw, hrest, hcount, hkind, heca, hdev, htx, hcheck, fun i hi => h.fbByte_process hw hi,
    fun hbad => rejectedWith_of_eq (processLength_badHex (hfield.symm ▸ hbad)) rfl, fun v hv => ?_⟩
  rw [processLength_accepts (hfield.symm ▸ hv)]
  exact ⟨rfl, ⟨rfl, rfl, rfl, rfl, rfl, rfl, rfl⟩, toNat_ofNat_parsed hv, rfl, rfl, rfl⟩

/-- Settles O31: the fields stand where they were read to, and the verdict is on them. -/
theorem longBodyIsValidatedThenAccepted : Obligations.LongBodyIsValidatedThenAccepted := by
  intro s payload chk cr lf rest hx hst hfbn hneed hwf ho hf hpayload hchk hrx parsed cov
  have hw : (DecState.waitBody, processBody) ∈ waitProcess := .tail _ (.tail _ (.head _))
  have hmax : s.hLen.toNat < 4096 := s.hLen.isLt
  have hlen : (payload ++ chk ++ [cr, lf]).length = s.hLen.toNat + 6 := by simp [hpayload, hchk]
  have h : Finds .waitBody 9 (payload ++ chk ++ [cr, lf]) rest s :=
    ⟨hx, hst, hfbn, hneed.trans hlen.symm, hwf, ho, hf, by simp [hrx], by rw [hlen, Config.frameMax]; omega⟩
  obtain ⟨hdata, hcov, hfield, hcr, hlf⟩ := h.trailer hpayload hchk (m := 9 + s.hLen.toNat) (i := 13 + s.hLen.toNat)
    (j := 14 + s.hLen.toNat) rfl (by omega) (by omega)
  obtain ⟨hrest, hcount, htx, hcheck, hop⟩ := h.consumes hw
  refine ⟨_, h.exec_eq hw, hrest, by rw [hcount, hlen]; omega, htx, hcheck, hop, fun hp hbad => ?_, fun c hc => ?_⟩
  · exact rejectedWith_of_eq (processBody_badHex (parsesCheck_iff.mpr hp) (hfield.symm ▸ hbad)) rfl
  · obtain ⟨d, hd⟩ := processBody_verdict (u := chunkRead _ rest s) rfl hdata hcov hcr hlf fun hp =>
      hfield.symm ▸ hc (parsesCheck_iff.mp hp)
    exact (verdict_spec (s := s) hd rfl :)

/-- Settles O32: as for the long format, the code field coming before the check field. -/
theorem shortBodyIsValidatedThenAccepted : Obligations.ShortBodyIsValidatedThenAccepted := by
  intro s code chk cr lf rest hx hst hfbn hneed hwf ho hf hcode hchk hrx parsed cov term
  have hw : (DecState.waitShort, processShort) ∈ waitProcess := .tail _ (.tail _ (.tail _ (.head _)))
  have hlen : (code ++ chk ++ [cr, lf]).length = 8 := by simp [hcode, hchk]
  have h : Finds .waitShort 6 (code ++ chk ++ [cr, lf]) rest s :=
    ⟨hx, hst, hfbn, hneed.trans hlen.symm, hwf, ho, hf, by simp [hrx], by rw [hlen]; decide⟩
  obtain ⟨hdigits, hcov, hfield, hcr, hlf⟩ := h.trailer hcode hchk rfl rfl rfl
  have hterm : shortTermOk (chunkRead (code ++ chk ++ [cr, lf]) rest s) = true ↔ term := by
    rw [shortTermOk_iff, hcr, hlf]
    rfl
  obtain ⟨hrest, hcount, htx, hcheck, hop⟩ := h.consumes hw
  refine ⟨_, h.exec_eq hw, hrest, by rw [hcount, hlen], htx, hcheck, hop, fun hbad => ?_, fun v hv =>
    ⟨fun hp hbad => ?_, fun c hc => ?_⟩⟩
  · exact rejectedWith_of_eq (processShort_badCode (hdigits.symm ▸ hbad)) rfl
  · exact rejectedWith_of_eq
      (processShort_badCheck (hdigits.symm ▸ hv) (parsesCheck_iff.mpr hp) (hfield.symm ▸ hbad)) rfl
  · obtain ⟨d, hd⟩ := processShort_verdict (u := chunkRead _ rest s) hcov (hdigits.symm ▸ hv) fun hp =>
      hfield.symm ▸ hc (parsesCheck_iff.mp hp)
    obtain ⟨hintegrity, hbadTerm, haccepted⟩ := verdict_spec (s := s) hd rfl
    exact ⟨hintegrity, fun hok hnot => hbadTerm hok (Bool.eq_false_iff.mpr (mt hterm.mp hnot)),
      fun hok ht => haccepted hok (hterm.mpr ht)⟩
end

section
/-! SUPPORT. A bound on the steps of a receive to which nothing more comes: every step but the last lowers it
(42_decoder.md R262). -/

namespace Sys2Proof.Machine

variable {s t u : State} {process : State → State}

/-! ## A step is never missing -/

/-- A poll whose bytes have room in `FB` has a next state. -/
theorem pollStep_exists (hfit : s.fbn + s.need ≤ Config.frameMax) : ∃ t, pollStep process s = .next t := by
  by_cases hn : s.need ≤ chanAvail s
  · by_cases hlen : (chanRead s.need s).1.length < s.need
    · exact ⟨_, pollStep_short hn hfit hlen⟩
    · exact ⟨_, pollStep_whole hn hfit (Nat.le_of_not_lt hlen)⟩
  · by_cases ht : s.cfgRto < s.ticks
    · exact ⟨_, pollStep_expire (Nat.lt_of_not_le hn) ht⟩
    · exact ⟨_, pollStep_sleep (Nat.lt_of_not_le hn) (Nat.le_of_not_lt ht)⟩

/-- A receive in a state that meets the invariant has a next step: its longest frame fills `FB` (10_state.md R33). -/
theorem ReceiveInv.receiveStep_exists (h : ReceiveInv s) (hx : Executing .decRecv s) :
    ∃ t, receiveStep s = .next t := by
  cases hst : s.st <;> simp only [ReceiveInv, hst] at h <;> simp only [receiveStep, hst]
  case idle => exact absurd hx h
  case scan => exact ⟨_, rfl⟩
  case waitHdr =>
    obtain ⟨-, hfbn, hneed, -⟩ := h
    exact pollStep_exists (by rw [hfbn, hneed]; decide)
  case waitLen | waitShort =>
    obtain ⟨-, hfbn, hneed, -⟩ := h
    exact pollStep_exists (by rw [hfbn, hneed]; decide)
  case waitBody =>
    obtain ⟨-, hfbn, hneed, -⟩ := h
    have hmax : s.hLen.toNat < 4096 := s.hLen.isLt
    exact pollStep_exists (by rw [hfbn, hneed, Config.frameMax]; omega)

/-! ## The bound -/

/-- The polls left of the wait in progress, where it never sees its bytes (42_decoder.md R225). -/
def pollsLeft (s : State) : Nat := s.cfgRto + 2 - s.ticks

/-- A bound on the steps left: a step for each byte the scan can drop and one that finds nothing; `CFG_RTO + 2` polls
for each wait still to come, and what is left of the one in progress. -/
def stepsLeft (s : State) : Nat :=
  match s.st with
  | .idle => 0
  | .scan => s.rx.length + 1 + 3 * (s.cfgRto + 2)
  | .waitHdr => 2 * (s.cfgRto + 2) + pollsLeft s
  | .waitLen => s.cfgRto + 2 + pollsLeft s
  | .waitBody => pollsLeft s
  | .waitShort => s.cfgRto + 2 + pollsLeft s

theorem pollsLeft_le (s : State) : pollsLeft s ≤ s.cfgRto + 2 := Nat.sub_le _ _

theorem pollsLeft_pos (h : s.ticks ≤ s.cfgRto + 1) : 0 < pollsLeft s := Nat.sub_pos_of_lt (Nat.lt_succ_of_le h)

theorem stepsLeft_le (s : State) : stepsLeft s ≤ s.rx.length + 1 + 3 * (s.cfgRto + 2) := by
  have hpolls := pollsLeft_le s
  unfold stepsLeft
  split <;> omega

theorem ReceiveInv.stepsLeft_pos (h : ReceiveInv s) (hx : Executing .decRecv s) : 0 < stepsLeft s := by
  have hpolls := pollsLeft_pos (h.ticks_le hx)
  cases hst : s.st <;> simp only [ReceiveInv, hst] at h <;> simp only [stepsLeft, hst]
  case idle => exact absurd hx h
  all_goals omega

/-! ## A step lowers it -/

/-- A read takes from `RX` what it returns (20_memory.md R62). -/
theorem length_chanRead_add (n : Nat) (s : State) :
    (chanRead n s).1.length + (chanRead n s).2.rx.length = s.rx.length := by
  obtain ⟨k, tape, c, -, -, h⟩ := chanRead_spec n s
  rw [h, List.length_take, List.length_drop]
  omega

/-- A receive that has ended is no longer in progress. -/
theorem not_executing_of_done (h : t.phase = .done) : ¬Executing .decRecv t := fun hx => nomatch h.symm.trans hx

/-- Once the sentinel is taken, the polls of three waits are left. -/
theorem stepsLeft_takeSentinel_le (u : State) : stepsLeft (takeSentinel u) ≤ 3 * (u.cfgRto + 2) := by
  have hpolls : pollsLeft (takeSentinel u) ≤ u.cfgRto + 2 := pollsLeft_le _
  show 2 * (u.cfgRto + 2) + pollsLeft (takeSentinel u) ≤ 3 * (u.cfgRto + 2)
  omega

/-- The scan finds nothing and ends the receive, takes the sentinel, or drops one byte. -/
theorem stepsLeft_scanStep_lt (hst : s.st = .scan) (hx : Executing .decRecv (scanStep s)) :
    stepsLeft (scanStep s) < stepsLeft s := by
  have hlen := length_chanRead_add 1 s
  have hrto := chanRead_cfgRto 1 s
  have hleft : stepsLeft s = s.rx.length + 1 + 3 * (s.cfgRto + 2) := by rw [stepsLeft, hst]
  cases hread : (chanRead 1 s).1 with
  | nil =>
    rw [scanStep_noData hread] at hx
    exact absurd hx (not_executing_of_done rfl)
  | cons b bs =>
    rw [hread, List.length_cons] at hlen
    by_cases hb : b = 0x21
    · subst hb
      have hwait := stepsLeft_takeSentinel_le (chanRead 1 s).2
      rw [scanStep_sentinel hread, hleft]
      omega
    · have hscan : stepsLeft (chanRead 1 s).2 = (chanRead 1 s).2.rx.length + 1 + 3 * ((chanRead 1 s).2.cfgRto + 2) := by
        rw [stepsLeft, chanRead_st, hst]
      rw [scanStep_drops hread hb, hleft, hscan, hrto]
      omega

/-- An accepted header leaves at most two waits. -/
theorem stepsLeft_processHeader_le (u : State) (hx : Executing .decRecv (processHeader u)) :
    stepsLeft (processHeader u) ≤ 2 * (u.cfgRto + 2) := by
  obtain ⟨v, ⟨c, -, h⟩ | ⟨k, h⟩, hv⟩ := processHeader_cases u <;> rw [h] at hx ⊢
  · exact absurd hx (not_executing_of_done rfl)
  · obtain ⟨-, -, hrto, -⟩ := hv.decoderOnly.kept
    have hpolls : pollsLeft (takeKind k v) ≤ v.cfgRto + 2 := pollsLeft_le _
    have hleft : stepsLeft (takeKind k v) = v.cfgRto + 2 + pollsLeft (takeKind k v) := by cases k <;> rfl
    omega

/-- An accepted length leaves one wait. -/
theorem stepsLeft_processLength_le (u : State) (hx : Executing .decRecv (processLength u)) :
    stepsLeft (processLength u) ≤ u.cfgRto + 2 := by
  obtain h | ⟨l, -, h⟩ := processLength_cases u <;> rw [h] at hx ⊢
  · exact absurd hx (not_executing_of_done rfl)
  · exact pollsLeft_le (enterWait .waitBody (l + 6) { u with hLen := BitVec.ofNat 12 l })

/-- Whatever comes of a body ends the receive. -/
theorem processBody_done (u : State) : (processBody u).phase = .done := by
  obtain ⟨v, ⟨c, -, h⟩ | h, -⟩ := processBody_cases u <;> rw [h] <;> rfl

theorem processShort_done (u : State) : (processShort u).phase = .done := by
  obtain ⟨v, ⟨c, -, h⟩ | h, -⟩ := processShort_cases u <;> rw [h] <;> rfl

/-- A poll sleeps, ends the receive, or gives way to the waits that come after, `later` being their polls. -/
theorem stepsLeft_pollStep_lt {later : Nat}
    (hleft : ∀ k, stepsLeft { s with ticks := k } = later + pollsLeft { s with ticks := k })
    (hticks : s.ticks ≤ s.cfgRto + 1)
    (hp : ∀ u, u.cfgRto = s.cfgRto → Executing .decRecv (process u) → stepsLeft (process u) ≤ later)
    (h : pollStep process s = .next t) (hx : Executing .decRecv t) : stepsLeft t < stepsLeft s := by
  have hs : stepsLeft s = later + pollsLeft s := hleft s.ticks
  have hpos := pollsLeft_pos hticks
  obtain ⟨-, -, ⟨-, rfl⟩ | ⟨-, rfl⟩⟩ | ⟨-, -, rfl⟩ | ⟨-, -, rfl⟩ := pollStep_next h
  · exact absurd hx (not_executing_of_done rfl)
  · have hwaits := hp _ (by rw [fbAppend_cfgRto, chanRead_cfgRto]) hx
    omega
  · exact absurd hx (not_executing_of_done rfl)
  · have hslept : pollsLeft { s with ticks := s.ticks + 1 } = pollsLeft s - 1 := (Nat.sub_sub _ _ _).symm
    rw [hleft, hs, hslept]
    omega

/-- A receive that goes on has fewer steps left. -/
theorem ReceiveInv.stepsLeft_lt (h : ReceiveInv s) (hs : receiveStep s = .next t) (he : Executing .decRecv s)
    (hx : Executing .decRecv t) : stepsLeft t < stepsLeft s := by
  have hticks := h.ticks_le he
  cases hst : s.st <;> simp only [receiveStep, hst] at hs
  case idle => cases hs
  case scan =>
    cases hs
    exact stepsLeft_scanStep_lt hst hx
  case waitHdr =>
    exact stepsLeft_pollStep_lt (later := 2 * (s.cfgRto + 2)) (fun k => by simp only [stepsLeft, hst]) hticks
      (fun u hu hx => hu ▸ stepsLeft_processHeader_le u hx) hs hx
  case waitLen =>
    exact stepsLeft_pollStep_lt (later := s.cfgRto + 2) (fun k => by simp only [stepsLeft, hst]) hticks
      (fun u hu hx => hu ▸ stepsLeft_processLength_le u hx) hs hx
  case waitBody =>
    exact stepsLeft_pollStep_lt (later := 0) (fun k => by simp only [stepsLeft, hst, Nat.zero_add]) hticks
      (fun u _ hx => absurd hx (not_executing_of_done (processBody_done u))) hs hx
  case waitShort =>
    exact stepsLeft_pollStep_lt (later := s.cfgRto + 2) (fun k => by simp only [stepsLeft, hst]) hticks
      (fun u _ hx => absurd hx (not_executing_of_done (processShort_done u))) hs hx

/-! ## The run -/

theorem ReceiveCase.executing_or_done (h : ReceiveCase s t) (hx : Executing .decRecv s) :
    Executing .decRecv t ∨ t.phase = .done := by
  cases h with
  | goesOn h =>
    obtain ⟨-, hphase, -⟩ := h.kept
    exact .inl (hphase.trans hx)
  | rejected c u hc hu ht => subst ht; exact .inr rfl
  | accepted k col present payload u hu ht => subst ht; exact .inr rfl

/-- A receive to which nothing more comes is done within the bound. -/
theorem State.Inv.receive_reaches_done {s : State} (h : s.Inv) (hx : Executing .decRecv s) (hq : s.supply = .quiet)
    (he : s.events = [] ∨ ∃ k es, s.events = .awaitDone k :: es) :
    ∃ n t, n ≤ stepsLeft s ∧ Reaches n s t ∧ t.phase = .done ∧ t.events = s.events := by
  obtain ⟨t, ht⟩ := h.receive.receiveStep_exists hx
  have hstep : step s = .next t := (step_receive hx he hq).trans ht
  have hcase := receiveStep_next ht
  obtain ⟨-, -, hev, hsup⟩ := hcase.outside
  obtain htx | hdone := hcase.executing_or_done hx
  · have hlt := h.receive.stepsLeft_lt ht hx htx
    obtain ⟨n, u, hn, hrun, hdone, hu⟩ :=
      (h.after_receiveStep hx ht).receive_reaches_done htx (hsup.trans hq) (hev ▸ he)
    exact ⟨n + 1, u, Nat.lt_of_le_of_lt hn hlt, hrun.succ hstep, hdone, hu.trans hev⟩
  · exact ⟨1, t, h.receive.stepsLeft_pos hx, Reaches.one hstep, hdone, hev⟩
termination_by stepsLeft s

end Sys2Proof.Machine

open Sys2Proof Sys2Proof.Machine

/-- Settles O48, from the bound that every step but the last lowers. -/
theorem receiveTerminates : Obligations.ReceiveTerminates := by
  intro s h hx hq he
  obtain ⟨n, t, hn, hrun, hdone, hev⟩ := h.receive_reaches_done hx hq he
  exact ⟨n, t, hn.trans (stepsLeft_le s), hrun, hdone, hev⟩
end

section
/-! SUPPORT. The work of the channel commands, case by case (43_host_ops.md R280, R281). -/

namespace Sys2Proof.Machine

variable {s : State}

/-- Each of true and false is the outcome of a draw. -/
theorem drawBool_toNat (r : Bool) : drawBool r.toNat = r := by cases r <;> rfl

/-- An open channel is not asked again. -/
theorem openChannel_open (ho : s.chanOpen = true) : openChannel s = complete true s := if_pos ho

/-- A closed channel answers. -/
theorem openChannel_closed (hc : s.chanOpen = false) :
    openChannel s = complete (drawBool (draw s).1) { (draw s).2 with chanOpen := drawBool (draw s).1 } :=
  if_neg (Bool.eq_false_iff.mp hc)

/-- The tape's next choice is the answer. -/
theorem exec_chanOpenCmd_drawn {r : Bool} {ds : List Nat} (hx : Executing .chanOpenCmd s) (hc : s.chanOpen = false)
    (ht : s.tape = r.toNat :: ds) :
    exec .chanOpenCmd s = .next (complete r { s with tape := ds, chanOpen := r }) := by
  rw [exec_chanOpenCmd_executing hx, openChannel_closed hc, draw_tape ht, drawBool_toNat]

/-- Closing an open channel draws what becomes of `RX`. -/
theorem closeChannel_open (ho : s.chanOpen = true) :
    closeChannel s = complete true { (draw s).2 with chanOpen := false, rx := rxAfterDraw (draw s).1 s.rx } :=
  if_pos ho

/-- Closing a closed channel draws nothing. -/
theorem closeChannel_closed (hc : s.chanOpen = false) : closeChannel s = complete true s :=
  if_neg (Bool.eq_false_iff.mp hc)

/-- The tape's next choice says what becomes of `RX`. -/
theorem exec_chanCloseCmd_drawn {d : Nat} {ds : List Nat} (hx : Executing .chanCloseCmd s) (ho : s.chanOpen = true)
    (ht : s.tape = d :: ds) : exec .chanCloseCmd s =
      .next (complete true { s with tape := ds, chanOpen := false, rx := rxAfterDraw d s.rx }) := by
  rw [exec_chanCloseCmd_executing hx, closeChannel_open ho, draw_tape ht]

/-- A draw keeps `RX` or drops it (20_memory.md R65). -/
theorem rxAfterDraw_cases (d : Nat) (rx : List Byte) : rxAfterDraw d rx = rx ∨ rxAfterDraw d rx = [] := by
  unfold rxAfterDraw
  split
  · exact .inr rfl
  · exact .inl rfl

end Sys2Proof.Machine

open Sys2Proof Sys2Proof.Machine

/-- Settles O21, by the work of the command: its ports were tested at the accept step. -/
theorem chkComputeWritesTheCheckValue : Obligations.ChkComputeWritesTheCheckValue :=
  fun _ _ _ _ _ _ => exec_chkCompute_executing

/-- Settles O22: the answer is the draw, which the tape's next choice can fix either way. -/
theorem chanOpenTakesTheChannelsAnswer : Obligations.ChanOpenTakesTheChannelsAnswer := by
  intro s hx
  refine ⟨fun ho => ?_, fun hc => ?_, fun hc r => ?_⟩
  · rw [exec_chanOpenCmd_executing hx, openChannel_open ho, complete]
  · obtain ⟨tape, n, hd⟩ := draw_snd s
    refine ⟨drawBool (draw s).1, tape, n, ?_⟩
    rw [exec_chanOpenCmd_executing hx, openChannel_closed hc, hd, complete]
  · exact ⟨[r.toNat], _, exec_chanOpenCmd_drawn (s := { s with tape := [r.toNat] }) hx hc rfl, rfl, rfl⟩

/-- Settles O23: what becomes of `RX` is the draw, which the tape's next choice can fix either way. -/
theorem chanCloseClosesAndMayDropTheStream : Obligations.ChanCloseClosesAndMayDropTheStream := by
  intro s hx
  refine ⟨fun ho => ?_, fun ho keep => ?_, fun hc => ?_⟩
  · obtain ⟨tape, n, hd⟩ := draw_snd s
    refine ⟨rxAfterDraw (draw s).1 s.rx, tape, n, rxAfterDraw_cases _ _, ?_⟩
    rw [exec_chanCloseCmd_executing hx, closeChannel_open ho, hd, complete]
  · have hclose := exec_chanCloseCmd_drawn (s := { s with tape := [(!keep).toNat] }) hx ho rfl
    exact ⟨_, _, hclose, by cases keep <;> rfl⟩
  · rw [exec_chanCloseCmd_executing hx, closeChannel_closed hc, complete]
end

section
/-! SUPPORT. The host's reads: which of them return, and a run of them. -/

namespace Sys2Proof.Machine

variable {s t : State} {r : HostReg} {n : Nat}

/-- A host read of `r` in `s` returns `n`. -/
def Returns (r : HostReg) (n : Nat) (s : State) : Prop :=
  hostRead r s = .next { s with hostReads := s.hostReads ++ [(r, n)] }

/-- What a register holds is what a read of it returns. -/
theorem readOut_returns_iff {v : Option Nat} :
    readOut r v s = .next { s with hostReads := s.hostReads ++ [(r, n)] } ↔ v = some n := by
  cases v <;> simp [readOut]

/-- What a read returns depends on neither the inputs to come nor the reads before it. -/
theorem Returns.later (h : Returns r n s) (es : List Event) (reads : List (HostReg × Nat)) :
    Returns r n { s with events := es, hostReads := reads } := by
  cases r <;> simp only [Returns, hostRead] at h ⊢
  case diagCause =>
    split at h
    · rw [if_pos ‹_›]
      exact readOut_returns_iff.mpr (readOut_returns_iff.mp h)
    · cases h
  all_goals exact readOut_returns_iff.mpr (readOut_returns_iff.mp h)

/-- A register that is written returns its value. -/
theorem exists_returns {α : Type} {o : Option α} {f : α → Nat} (hread : hostRead r s = readOut r (o.map f) s)
    (ho : o.isSome) : ∃ n, Returns r n s := by
  obtain ⟨a, rfl⟩ := Option.isSome_iff_exists.mp ho
  exact ⟨f a, hread⟩

/-- A read that is the next input, and returns. -/
theorem Returns.step_eq {es : List Event} (h : Returns r n s) (he : s.events = .read r :: es) :
    step s = .next { s with events := es, hostReads := s.hostReads ++ [(r, n)] } :=
  (step_read he).trans (h.later es s.hostReads)

/-- Reads that return, made one after another. -/
theorem reaches_reads {reads : List (HostReg × Nat)} {es : List Event} (h : ∀ p ∈ reads, Returns p.1 p.2 s) :
    Reaches reads.length { s with events := (reads.map Prod.fst).map .read ++ es }
      { s with events := es, hostReads := s.hostReads ++ reads } := by
  induction reads generalizing s with
  | nil =>
    rw [List.append_nil]
    rfl
  | cons p ps ih =>
    obtain ⟨hp, hps⟩ := List.forall_mem_cons.mp h
    have hrest := ih (s := { s with hostReads := s.hostReads ++ [p] }) fun q hq => (hps q hq).later s.events _
    rw [List.append_assoc] at hrest
    exact hrest.succ ((hp.later _ s.hostReads).step_eq rfl)

/-- Registers that are written, with the values a read of each returns. -/
theorem exists_reads {rs : List HostReg} (h : ∀ r ∈ rs, ∃ n, Returns r n s) :
    ∃ reads : List (HostReg × Nat), reads.map Prod.fst = rs ∧ ∀ p ∈ reads, Returns p.1 p.2 s := by
  choose! value hvalue using h
  refine ⟨rs.map fun r => (r, value r), by simp [Function.comp_def], fun p hp => ?_⟩
  obtain ⟨r, hr, rfl⟩ := List.mem_map.mp hp
  exact hvalue r hr

/-! ## The reads of `begin()` and of `receive()` -/

/-- `begin()` returns the `OK` of the block (43_host_ops.md R289). -/
theorem beginResult_statusWord (s : State) : beginResult (statusWord s).toNat = s.ok := by
  have hphase : (phaseCode s.phase).toNat < 4 := (phaseCode s.phase).isLt
  have hop : s.op.toNat < 16 := s.op.isLt
  have hbit : (statusWord s).toNat / 64 % 2 = s.ok.toNat := by
    have hok := s.ok.toNat_lt
    rw [statusWord_toNat]
    omega
  rw [beginResult, hbit]
  cases s.ok <;> rfl

theorem receiveReads_timeout (hk : s.resKind = some .timeout) : receiveReads s = [.resKind] := by
  rw [receiveReads, hk]

theorem receiveReads_frame (hk : s.resKind ≠ none) (ht : s.resKind ≠ some .timeout) : receiveReads s =
    [.resKind, .resDev, .resCol, .resEca] ++ (List.range s.resPayload.length).map .resPayload := by
  unfold receiveReads
  split
  · exact absurd ‹_› ht
  · rfl
  · exact absurd ‹_› hk

/-- The result of a receive that ended with a frame has a device, a column and an algorithm. -/
theorem ResultInv.frame_isSome (h : ResultInv s) (hk : s.resKind ≠ none) (ht : s.resKind ≠ some .timeout) :
    s.resDev.isSome ∧ s.resCol.isSome ∧ s.resEca.isSome := by
  obtain ⟨-, h⟩ := h
  split at h
  · exact absurd ‹_› hk
  · exact absurd ‹_› ht
  case h_3 | h_4 =>
    obtain ⟨hdev, hcol, -, -, heca, -⟩ := h
    exact ⟨hdev, hcol ▸ rfl, heca⟩
  case h_5 | h_6 =>
    obtain ⟨hdev, ⟨c, hcol⟩, -, -, heca, -⟩ := h
    exact ⟨hdev, hcol ▸ rfl, heca⟩

/-- Every read of `receive()` returns (60_exceptions.md R315). -/
theorem ResultInv.receiveReads_return (h : ResultInv s) (hk : s.resKind ≠ none) :
    ∀ r ∈ receiveReads s, ∃ n, Returns r n s := by
  have hkind : ∃ n, Returns .resKind n s := exists_returns rfl (Option.isSome_iff_ne_none.mpr hk)
  by_cases ht : s.resKind = some .timeout
  · rw [receiveReads_timeout ht]
    exact List.forall_mem_singleton.mpr hkind
  · obtain ⟨hdev, hcol, heca⟩ := h.frame_isSome hk ht
    rw [receiveReads_frame hk ht]
    refine List.forall_mem_append.mpr ⟨?_, List.forall_mem_map.mpr fun i hi => ?_⟩
    · simp only [List.forall_mem_cons]
      exact ⟨hkind, exists_returns rfl hdev, exists_returns rfl hcol, exists_returns rfl heca, nofun⟩
    · have hlt : i < s.resPayload.length := List.mem_range.mp hi
      exact exists_returns rfl (by simpa using hlt)

end Sys2Proof.Machine
end

section
/-! SUPPORT. The role adapters' calls (43_host_ops.md R284 to R289): the command each presents, the wait for `DONE`, and the
reads after it. -/

namespace Sys2Proof.Machine

variable {s t u : State} {es : List Event} {n : Nat}

/-! ## The command -/

/-- The word and ports a call presents decode to the command it expands to, whatever the payload's length. -/
theorem decodeCommand_expandCall (a : Alg) (c : AdapterCall) :
    decodeCommand (encode (expandCall a c)).byte (encode (expandCall a c)).ports = expandCall a c := by
  obtain ⟨hreq, hrsp, hsip, hcep, -⟩ := decodeCommand_commandWord a (encode (expandCall a c)).ports
  cases c with
  | sendRequest dev payload => exact hreq
  | sendResponse dev payload => exact hrsp
  | sendInterrupt dev code => exact hsip
  | sendError dev code => exact hcep
  | receive => exact Except.ok.inj (decode_encode (i := .decRecv) rfl)
  | beginChannel => exact Except.ok.inj (decode_encode (i := .chanOpenCmd) rfl)

/-- A call presented to a block that is not `BUSY` runs its command. -/
theorem step_callCommand {c : AdapterCall} (hr : Ready s) (he : s.events = callCommand s c :: es) :
    step s = exec (expandCall s.cfg.adapterEca c) { s with events := es } := by
  rw [step_command hr he, decodeCommand_expandCall]

/-! ## The wait -/

/-- A wait for `DONE` in a block that has accepted nothing since reset: the channel supplies its bytes, and the wait
stays. -/
theorem step_awaitDone_idle {k : AfterDone} (hp : s.phase = .idle) (he : s.events = .awaitDone k :: es) :
    step s = .next (supplyNext s) := by
  simp only [step, fetch, he, fetchEvent, fetchAwait, fetchCodec, hp]

theorem Reaches.exists_step (h : Reaches (n + 1) s t) : ∃ v, step s = .next v ∧ Reaches n v t := by
  cases hs : Sys2Proof.core.step s with
  | next v => exact ⟨v, hs, (run_succ_next hs).symm.trans h⟩
  | fault f => simp [Reaches, Host.Core.run, hs] at h
  | refused r => simp [Reaches, Host.Core.run, hs] at h

/-- The invariant holds all along a run. -/
theorem Reaches.keeps_inv (hrun : Reaches n s t) (h : s.Inv) : t.Inv := by
  induction n generalizing s with
  | zero => cases hrun; exact h
  | succ n ih =>
    obtain ⟨v, hv, hrest⟩ := hrun.exists_step
    exact ih hrest (stepKeepsTheInvariant s v h hv)

theorem ReceiveCase.decoderOnly_or_done (h : ReceiveCase s t) : DecoderOnly s t ∨ t.phase = .done := by
  cases h with
  | goesOn h => exact .inl h
  | rejected c u hc hu ht => subst ht; exact .inr rfl
  | accepted k col present payload u hu ht => subst ht; exact .inr rfl

/-- A receive adds nothing to the record of the host's reads. -/
theorem ReceiveCase.hostReads_eq (h : ReceiveCase s t) : t.hostReads = s.hostReads := by
  have kept : ∀ u, DecoderOnly s u → u.hostReads = s.hostReads := fun u hu => by rw [hu]
  cases h with
  | goesOn h => exact kept t h
  | rejected c u hc hu ht => subst ht; exact kept u hu
  | accepted k col present payload u hu ht => subst ht; exact kept u hu

/-- A receive that has ended has written its result. -/
theorem ReceiveCase.resKind_ne_none (h : ReceiveCase s t) (hx : Executing .decRecv s) (hdone : t.phase = .done) :
    t.resKind ≠ none := by
  cases h with
  | goesOn h =>
    obtain ⟨-, hphase, -⟩ := h.kept
    exact absurd (hphase.trans hx) (not_executing_of_done hdone)
  | rejected c u hc hu ht => subst ht; nofun
  | accepted k col present payload u hu ht => subst ht; nofun

/-- A run from a receive in progress to `DONE` passes through the receive's own end, which differs from its beginning as
one step of a receive does. -/
theorem Reaches.receive_ends (hrun : Reaches n s t) (hdone : t.phase = .done) (hx : Executing .decRecv s)
    (hq : s.supply = .quiet) (he : s.events = [] ∨ ∃ k es, s.events = .awaitDone k :: es) :
    ∃ m u, Reaches m s u ∧ u.phase = .done ∧ ReceiveCase s u := by
  induction n generalizing s with
  | zero =>
    cases hrun
    exact absurd hx (not_executing_of_done hdone)
  | succ n ih =>
    obtain ⟨v, hstep, hrest⟩ := hrun.exists_step
    have hcase : ReceiveCase s v := receiveStep_next ((step_receive hx he hq).symm.trans hstep)
    obtain hv | hend := hcase.decoderOnly_or_done
    · obtain ⟨-, hphase, -⟩ := hv.kept
      obtain ⟨-, -, -, hev, hsup⟩ := hv.outside
      obtain ⟨m, u, hmu, hu, hends⟩ := ih hrest (hphase.trans hx) (hsup.trans hq) (hev ▸ he)
      exact ⟨m + 1, u, hmu.succ hstep, hu, hends.after hv⟩
    · exact ⟨1, v, Reaches.one hstep, hend, hcase⟩

/-! ## The whole call -/

/-- A receive whose host waits for it, and to which nothing more comes, ends with a result, the wait still standing and
nothing read. -/
theorem State.Inv.receive_completes {k : AfterDone} (h : s.Inv) (hx : Executing .decRecv s) (hq : s.supply = .quiet)
    (he : s.events = .awaitDone k :: es) :
    ∃ n t, Reaches n s t ∧ t.Inv ∧ t.phase = .done ∧ t.events = .awaitDone k :: es ∧ t.resKind ≠ none ∧
      t.hostReads = s.hostReads := by
  have hwait : s.events = [] ∨ ∃ k es, s.events = .awaitDone k :: es := .inr ⟨k, es, he⟩
  obtain ⟨n, t, -, hrun, hdone, -⟩ := h.receive_reaches_done hx hq hwait
  obtain ⟨m, u, hmu, hu, hends⟩ := hrun.receive_ends hdone hx hq hwait
  obtain ⟨-, -, hev, -⟩ := hends.outside
  exact ⟨m, u, hmu, hmu.keeps_inv h, hu, hev.trans he, hends.resKind_ne_none hx hu, hends.hostReads_eq⟩

/-- The reads that follow a wait for `DONE`. -/
theorem reaches_followUp {k : AfterDone} {reads : List (HostReg × Nat)} (hp : s.phase = .done)
    (he : s.events = .awaitDone k :: es) (hregs : reads.map Prod.fst = followUp k s)
    (h : ∀ p ∈ reads, Returns p.1 p.2 s) :
    Reaches (reads.length + 1) s { s with events := es, hostReads := s.hostReads ++ reads } :=
  (reaches_reads h).succ (hregs ▸ step_awaitDone hp he)

end Sys2Proof.Machine

open Sys2Proof Sys2Proof.Machine

/-- Settles O59: each call presents the word of the command it expands to, and `STATUS` holds `OK` in bit 6. -/
theorem adapterCallsRunTheirCommand : Obligations.AdapterCallsRunTheirCommand := by
  intro s es dev code payload
  refine ⟨fun hr => ⟨?_, ?_, ?_, ?_, ?_, ?_⟩, fun hp he => ?_⟩
  · exact step_callCommand (c := .sendRequest dev payload) hr rfl
  · exact step_callCommand (c := .sendResponse dev payload) hr rfl
  · exact step_callCommand (c := .sendInterrupt dev code) hr rfl
  · exact step_callCommand (c := .sendError dev code) hr rfl
  · exact step_callCommand (c := .receive) hr rfl
  · exact step_callCommand (c := .beginChannel) hr rfl
  · have hread : Returns .status (statusWord s).toNat s := rfl
    exact ⟨_, beginResult_statusWord s, reaches_followUp hp he rfl (List.forall_mem_singleton.mpr hread)⟩

/-- Settles O60: the command, the receive it starts, and the reads of the result, which the invariant has written. -/
theorem receiveCallReadsItsResult : Obligations.ReceiveCallReadsItsResult := by
  refine ⟨fun s h hk => ?_, fun s es he => ?_, fun s h hr hq he => ?_⟩
  · exact ⟨receiveReads_timeout, receiveReads_frame hk, h.receiveReads_return hk⟩
  · exact ⟨fun i hi => step_executing hi (.inr ⟨_, es, he⟩), fun hp => step_awaitDone_idle hp he,
      fun hp => step_awaitDone hp he⟩
  · have haccept := (step_callCommand hr he).trans (exec_accepts (i := .decRecv) rfl rfl hr)
    obtain ⟨n, t, hrun, hinv, hdone, hwait, hkind, hnone⟩ :=
      (stepKeepsTheInvariant s _ h haccept).receive_completes rfl hq rfl
    obtain ⟨reads, hregs, hreturn⟩ := exists_reads (hinv.results.receiveReads_return hkind)
    have hcall := (hrun.succ haccept).trans (reaches_followUp hdone hwait hregs hreturn)
    exact ⟨_, _, reads, hcall, hdone, rfl, hkind, congrArg (· ++ reads) hnone, hregs,
      fun p hp => (hreturn p hp).later _ _⟩
end

section
/-! SUPPORT. How a step can fault, and which reads find a register `UNWRITTEN` (60_exceptions.md R315). -/

namespace Sys2Proof.Machine

variable {s : State} {i : Instr} {f : Fault} {r : HostReg} {es : List Event}

/-! ## Faults -/

/-- A command whose work always has a next state never faults. -/
theorem runCommand_ne_fault {ok : Bool} {start after : State → State} :
    runCommand i ok start (fun s => .next (after s)) s ≠ .fault f := fun h => by
  obtain ⟨-, hwork⟩ := runCommand_fault h
  cases hwork

theorem wireByte_ne_fault (w : DecState) (take : State → State) (s : State) : wireByte w take s ≠ .fault f := by
  unfold wireByte
  split <;> nofun

/-- No instruction faults but a receive in progress. -/
theorem exec_fault (h : exec i s = .fault f) : Executing .decRecv s ∧ receiveStep s = .fault f := by
  cases i
  case decRecv => exact runCommand_fault h
  case encReq | encRsp | encSip | encCep | chanOpenCmd | chanCloseCmd => exact absurd h runCommand_ne_fault
  case chkCompute =>
    rw [exec, execChkCompute] at h
    exact absurd h runCommand_ne_fault
  case wireKindRequest | wireKindResponse | wireKindInterrupt | wireKindCommError | wireEcaNone | wireEcaXor8 |
      wireEcaChecksum16 | wireEcaLrc16 | wireEcaFletcher16 | wireEcaCrc16 | wireSentinel =>
    exact absurd h (wireByte_ne_fault _ _ s)
  all_goals cases h

/-- Under the invariant a receive in progress has a next state, so no instruction faults (log entries 16 and 17). -/
theorem ReceiveInv.exec_ne_fault (h : ReceiveInv s) : exec i s ≠ .fault f := fun hexec => by
  obtain ⟨hx, hfault⟩ := exec_fault hexec
  obtain ⟨t, ht⟩ := h.receiveStep_exists hx
  cases ht.symm.trans hfault

theorem readOut_fault {v : Option Nat} (h : readOut r v s = .fault f) : f = .unwrittenRead r := by
  cases v with
  | none => cases h; rfl
  | some n => cases h

/-- A host read's only fault names the register. -/
theorem hostRead_fault (h : hostRead r s = .fault f) : f = .unwrittenRead r := by
  cases r <;> simp only [hostRead] at h
  case diagCause =>
    split at h
    · exact readOut_fault h
    · cases h
  all_goals exact readOut_fault h

/-- Everything a step can fault in: the instruction it runs, or a host read. -/
theorem step_fault (h : step s = .fault f) : (∃ i u, fetch s = .run i u ∧ exec i u = .fault f) ∨
    ∃ r es, s.events = .read r :: es ∧ hostRead r { s with events := es } = .fault f := by
  unfold step at h
  split at h
  · exact .inl ⟨_, _, ‹_›, h⟩
  · subst h
    rename_i hin
    obtain ⟨v, -, hf⟩ | ⟨w, p, es, -, hf⟩ | ⟨v, es, -, hf⟩ | ⟨r, es, he, hf⟩ | ⟨bs, es, -, hf⟩ | ⟨g, es, -, hf⟩ |
      ⟨es, -, hf⟩ | ⟨k, es, -, -, hf⟩ := fetch_cases s <;> rw [hf] at hin
    · obtain ⟨j, -, hj⟩ | ⟨-, hj⟩ := fetchCodec_cases v <;> rw [hj] at hin <;> cases hin
    · unfold fetchCommand at hin
      split at hin <;> cases hin
    · cases hin
    · exact .inr ⟨r, es, he, Fetched.input.inj hin⟩
    all_goals cases hin

/-! ## Reads of registers that are `UNWRITTEN` -/

/-- A read that is the next input, of a register that holds nothing. -/
theorem step_read_unwritten {α : Type} {o : Option α} {g : α → Nat} (he : s.events = .read r :: es)
    (hread : hostRead r { s with events := es } = readOut r (o.map g) { s with events := es }) (ho : o = none) :
    step s = .fault (.unwrittenRead r) := by
  subst ho
  exact (step_read he).trans hread

/-- While no receive has completed, and after a Timeout, the frame's registers are `UNWRITTEN` (10_state.md R53, R54;
60_exceptions.md R300). -/
theorem ResultInv.frame_unwritten (h : ResultInv s) (hk : s.resKind = none ∨ s.resKind = some .timeout) :
    s.resDev = none ∧ s.resCol = none ∧ s.resPayload = [] ∧ s.resPayloadPresent = none ∧ s.resEca = none := by
  obtain ⟨-, h⟩ := h
  obtain hk | hk := hk <;> rw [hk] at h
  · obtain ⟨hdev, hcol, hpayload, hpresent, heca, -⟩ := h
    exact ⟨hdev, hcol, hpayload, hpresent, heca⟩
  · obtain ⟨⟨-, hdev, hcol, hpayload, hpresent, heca⟩, -⟩ := h
    exact ⟨hdev, hcol, hpayload, hpresent, heca⟩

theorem ResultInv.diagCause_unwritten (h : ResultInv s) (hk : s.resKind = none) : s.diagCause = none := by
  obtain ⟨-, h⟩ := h
  rw [hk] at h
  obtain ⟨-, -, -, -, -, hcause⟩ := h
  exact hcause

/-- Either no byte of the payload is written, or `RES_COL` counts those of a Request or Response (10_state.md R48). -/
theorem ResultInv.payload_cases (h : ResultInv s) : s.resPayload = [] ∨
    ((s.resKind = some .request ∨ s.resKind = some .response) ∧
      ∃ n, s.resCol = some n ∧ n.toNat = s.resPayload.length) := by
  have counts : s.resPayload.length ≤ 4095 → (BitVec.ofNat 12 s.resPayload.length).toNat = s.resPayload.length :=
    fun hlen => by rw [BitVec.toNat_ofNat, Nat.mod_eq_of_lt (Nat.lt_succ_of_le hlen)]
  obtain ⟨-, h⟩ := h
  split at h
  case h_1 | h_5 | h_6 =>
    obtain ⟨-, -, hpayload, -⟩ := h
    exact .inl hpayload
  case h_2 =>
    obtain ⟨⟨-, -, -, hpayload, -⟩, -⟩ := h
    exact .inl hpayload
  case h_3 =>
    obtain ⟨-, hcol, hlen, -⟩ := h
    exact .inr ⟨.inl ‹_›, _, hcol, counts hlen⟩
  case h_4 =>
    obtain ⟨-, hcol, hlen, -⟩ := h
    exact .inr ⟨.inr ‹_›, _, hcol, counts hlen⟩

/-- The payload bytes at and above `RES_COL`, and all of them after an Interrupt or CommError, are `UNWRITTEN`. -/
theorem ResultInv.payload_unwritten {j : Nat} (h : ResultInv s)
    (hj : (∀ n, s.resCol = some n → n.toNat ≤ j) ∨ s.resKind = some .interrupt ∨ s.resKind = some .commError) :
    s.resPayload[j]? = none := by
  obtain hempty | ⟨hk, n, hcol, hlen⟩ := h.payload_cases
  · rw [hempty]
    rfl
  · obtain hj | hkind := hj
    · exact List.getElem?_eq_none (hlen ▸ hj n hcol)
    · obtain hkind | hkind := hkind <;> rw [hkind] at hk <;> exact absurd hk (by decide)

end Sys2Proof.Machine

open Sys2Proof Sys2Proof.Machine

/-- Settles O43: under the invariant no instruction faults, and of the inputs only a host read can. -/
theorem onlyUnwrittenReadsFault : Obligations.OnlyUnwrittenReadsFault := by
  intro s f h hs
  obtain ⟨i, u, hf, hexec⟩ | ⟨r, es, he, hread⟩ := step_fault hs
  · have hu : ReceiveInv u := by
      obtain ⟨-, v, hv, rfl⟩ | ⟨-, w, p, es, -, -, rfl⟩ := fetch_run hf
      · obtain ⟨es, rfl⟩ := hv.eq_events
        exact h.receive
      · exact h.receive
    exact absurd hexec hu.exec_ne_fault
  · exact ⟨r, es, he, hostRead_fault hread⟩

/-- Settles O52: in each clause the register holds nothing, by its premise or by what the invariant says of the results. -/
theorem unwrittenReadsFault : Obligations.UnwrittenReadsFault := by
  intro s r es he
  refine ⟨?_, ?_, ?_, ?_, fun h hk hr => ?_, ?_⟩
  · rintro rfl hnone
    exact step_read_unwritten he rfl hnone
  · rintro rfl hnone
    exact step_read_unwritten he rfl hnone
  · rintro rfl hd hnone
    exact step_read_unwritten he (if_pos hd) hnone
  · rintro rfl hd h hk
    exact step_read_unwritten he (if_pos hd) (h.results.diagCause_unwritten hk)
  · obtain ⟨hdev, hcol, hpayload, hpresent, heca⟩ := h.results.frame_unwritten hk
    obtain rfl | rfl | rfl | rfl | ⟨j, rfl⟩ := hr
    · exact step_read_unwritten he rfl hdev
    · exact step_read_unwritten he rfl hcol
    · exact step_read_unwritten he rfl heca
    · exact step_read_unwritten he rfl hpresent
    · exact step_read_unwritten (o := s.resPayload[j]?) he rfl (by rw [hpayload]; rfl)
  · rintro j rfl h hj
    exact step_read_unwritten he rfl (h.results.payload_unwritten hj)

/-- Settles O18: on an open channel an encode completes with `OK = 1`, on a closed one with `OK = 0` and nothing else. -/
theorem encodersFailExactlyOnAClosedChannel : Obligations.EncodersFailExactlyOnAClosedChannel := by
  intro s i _ hx hi
  obtain ⟨k, alg, dev, body, hexec⟩ := exec_encode hi
  have hclosed : s.chanOpen = false → exec i s = .next (complete false s) := fun ho => by
    rw [hexec s hx, encodeFrame_closed ho]
  have hopen : s.chanOpen = true →
      exec i s = .next (encoded alg (coveredBytes s.cfg k alg dev (body s.cfg)) s) := fun ho => by
    rw [hexec s hx, encodeFrame_open ho]
  refine ⟨hclosed, fun t ht => ?_, fun hc t ht => ?_⟩
  · cases ho : s.chanOpen with
    | true =>
      cases (hopen ho).symm.trans ht
      exact iff_of_false nofun nofun
    | false =>
      cases (hclosed ho).symm.trans ht
      exact iff_of_true rfl rfl
  · obtain ⟨-, -, hop⟩ := hc.executing hx
    obtain ⟨ok, checkOut, tx, hframe⟩ := encodeFrame_spec k alg dev (body s.cfg) s
    rw [hexec s hx, hframe] at ht
    cases ht
    exact hop
end

section
/-! SUPPORT. The cause and the bytes consumed where a receive ends, wait by wait (60_exceptions.md R301, R305). -/

namespace Sys2Proof.Machine

variable {s t u : State} {w : DecState} {process : State → State}

/-- The causes with which a wait can end a receive once it has read all its bytes (60_exceptions.md R301, R305). -/
def wholeReadCauses : DecState → List Cause
  | .idle | .scan => []
  | .waitHdr => [.badEca, .badHex, .badKind]
  | .waitLen => [.badHex]
  | .waitBody | .waitShort => [.badHex, .integrity, .badTerm, .accepted]

/-- The receive of state `s` ends in `t` with one of the causes `cs`. -/
def EndsWith (cs : List Cause) (s t : State) : Prop := ∃ c ∈ cs, t.diagCause = causeAfter s c

theorem DecoderOnly.endsWith {cs : List Cause} (hu : DecoderOnly s u) (h : EndsWith cs u t) : EndsWith cs s t := by
  obtain ⟨c, hc, ht⟩ := h
  exact ⟨c, hc, ht.trans (hu.causeAfter_eq c)⟩

/-- How a receive ends in the wait `w`, which has `n` bytes of the frame and needs `m` more, with the cause `c` and `fbn`
bytes consumed: expired, after a short read, or once all its bytes are processed (60_exceptions.md R305). -/
def WaitExit (w : DecState) (n m : Nat) (c : Cause) (fbn : Nat) : Prop :=
  (c = .waitExpired ∧ fbn = n) ∨ (c = .shortRead ∧ n ≤ fbn ∧ fbn < n + m) ∨ (c ∈ wholeReadCauses w ∧ fbn = n + m)

/-! ## The end of processing a whole read -/

theorem processHeader_goesOn_or_ends (u : State) :
    (processHeader u).phase = u.phase ∨ EndsWith (wholeReadCauses .waitHdr) u (processHeader u) := by
  simp only [processHeader]
  split
  · exact .inr ⟨.badEca, by decide, rfl⟩
  · split
    · exact .inr ⟨.badHex, by decide, rfl⟩
    · split
      · exact .inr ⟨.badKind, by decide, rfl⟩
      · exact .inl rfl

theorem processLength_goesOn_or_ends (u : State) :
    (processLength u).phase = u.phase ∨ EndsWith (wholeReadCauses .waitLen) u (processLength u) := by
  obtain h | ⟨n, -, h⟩ := processLength_cases u <;> rw [h]
  · exact .inr ⟨.badHex, by decide, rfl⟩
  · exact .inl rfl

theorem endsWith_finishLong (u : State) : EndsWith (wholeReadCauses .waitBody) u (finishLong u) := by
  unfold finishLong
  split
  · split
    · exact ⟨.accepted, by decide, rfl⟩
    · exact ⟨.badTerm, by decide, rfl⟩
  · exact ⟨.integrity, by decide, rfl⟩

theorem endsWith_finishShort (u : State) : EndsWith (wholeReadCauses .waitShort) u (finishShort u) := by
  unfold finishShort
  split
  · split
    · exact ⟨.accepted, by decide, rfl⟩
    · exact ⟨.badTerm, by decide, rfl⟩
  · exact ⟨.integrity, by decide, rfl⟩

theorem endsWith_processBody (u : State) : EndsWith (wholeReadCauses .waitBody) u (processBody u) := by
  unfold processBody
  split
  · exact ⟨.badHex, by decide, rfl⟩
  · rename_i v hv
    exact (headerOnly_latchCheck hv).decoderOnly.endsWith (endsWith_finishLong v)

theorem endsWith_processShort (u : State) : EndsWith (wholeReadCauses .waitShort) u (processShort u) := by
  unfold processShort
  split
  · exact ⟨.badHex, by decide, rfl⟩
  · rename_i code _
    have hcode : DecoderOnly u { u with hCode := BitVec.ofNat 8 code } := rfl
    split
    · exact ⟨.badHex, by decide, rfl⟩
    · rename_i v hv
      exact (hcode.trans (headerOnly_latchCheck hv).decoderOnly).endsWith (endsWith_finishShort v)

/-- Processing a whole read goes on with the receive, or ends it with one of the causes of its wait. -/
theorem process_goesOn_or_ends (h : (w, process) ∈ waitProcess) (u : State) :
    (process u).phase = u.phase ∨ EndsWith (wholeReadCauses w) u (process u) :=
  forall_waitProcess (P := fun w process => (process u).phase = u.phase ∨ EndsWith (wholeReadCauses w) u (process u))
    (processHeader_goesOn_or_ends u) (processLength_goesOn_or_ends u) (.inr (endsWith_processBody u))
    (.inr (endsWith_processShort u)) h

/-! ## What a read consumes -/

/-- What a read returns has left the head of `RX` (20_memory.md R62). -/
theorem chanRead_rx (n : Nat) (s : State) : (chanRead n s).2.rx = s.rx.drop (chanRead n s).1.length := by
  obtain ⟨k, tape, c, hk, -, h⟩ := chanRead_spec n s
  have hlen : k ≤ s.rx.length := hk.trans ((Nat.min_le_right _ _).trans (chanAvail_le s))
  rw [h, List.length_take_of_le hlen]

/-- A scan ends a receive only where it reads nothing. -/
theorem scanStep_done (hx : Executing .decRecv s) (hdone : (scanStep s).phase = .done) :
    (scanStep s).rx = s.rx ∧ (scanStep s).fbn = s.fbn ∧ (scanStep s).diagCause = causeAfter s .noData := by
  have hu := decoderOnly_chanRead 1 s
  obtain ⟨-, hphase, -⟩ := hu.kept
  have hbusy : Executing .decRecv (chanRead 1 s).2 := hphase.trans hx
  cases hread : (chanRead 1 s).1 with
  | nil =>
    rw [scanStep_noData hread]
    refine ⟨?_, chanRead_fbn 1 s, hu.causeAfter_eq .noData⟩
    rw [reject_rx, chanRead_rx, hread]
    rfl
  | cons b bs =>
    by_cases hb : b = 0x21
    · subst hb
      rw [scanStep_sentinel hread] at hdone
      exact absurd hbusy (not_executing_of_done hdone)
    · rw [scanStep_drops hread hb] at hdone
      exact absurd hbusy (not_executing_of_done hdone)

/-- The poll that ends a receive has taken from `RX` what it adds to `FBN`. -/
theorem pollStep_done (hw : (w, process) ∈ waitProcess) (hx : Executing .decRecv s) (hs : pollStep process s = .next t)
    (hdone : t.phase = .done) : t.rx = s.rx.drop (t.fbn - s.fbn) ∧ ∃ c, t.diagCause = causeAfter s c ∧
      WaitExit w s.fbn s.need c t.fbn := by
  have hread := decoderOnly_polled s.need s
  have hrx : (fbAppend (chanRead s.need s).1 (chanRead s.need s).2).rx = s.rx.drop (chanRead s.need s).1.length :=
    chanRead_rx s.need s
  have hfbn : (fbAppend (chanRead s.need s).1 (chanRead s.need s).2).fbn = s.fbn + (chanRead s.need s).1.length := by
    rw [fbAppend_fbn, chanRead_fbn]
  obtain ⟨-, -, ⟨hlen, rfl⟩ | ⟨hlen, rfl⟩⟩ | ⟨-, -, rfl⟩ | ⟨-, -, rfl⟩ := pollStep_next hs
  · rw [reject_rx, reject_fbn, hrx, hfbn, Nat.add_sub_cancel_left]
    exact ⟨rfl, .shortRead, hread.causeAfter_eq .shortRead, .inr (.inl ⟨rfl, by omega, by omega⟩)⟩
  · obtain ⟨-, hphase, -⟩ := hread.kept
    obtain ⟨⟨hrx', -, -⟩, hfbn', -, -⟩ := sameBytes_process hw (fbAppend (chanRead s.need s).1 (chanRead s.need s).2)
    obtain ⟨c, hc, hcause⟩ := hread.endsWith ((process_goesOn_or_ends hw _).resolve_left fun hgoes =>
      not_executing_of_done hdone (hgoes.trans (hphase.trans hx)))
    have hwhole : (chanRead s.need s).1.length = s.need := Nat.le_antisymm (length_chanRead_le _ _) hlen
    rw [hrx', hfbn', hrx, hfbn, Nat.add_sub_cancel_left]
    exact ⟨rfl, c, hcause, .inr (.inr ⟨hc, by rw [hwhole]⟩)⟩
  · rw [reject_rx, reject_fbn, Nat.sub_self]
    exact ⟨rfl, .waitExpired, rfl, .inl ⟨rfl, rfl⟩⟩
  · exact absurd hx (not_executing_of_done hdone)

end Sys2Proof.Machine

open Sys2Proof Sys2Proof.Machine

/-- Settles O35: the end of a scan or of a poll, with the place in the frame that the invariant gives each wait. -/
theorem bytesConsumedAtEachExit : Obligations.BytesConsumedAtEachExit := by
  intro s t h hd hx hexec hdone
  have hinv := h.receive
  have hcause : ∀ c, causeAfter s c = some c := fun c => if_pos hd
  have hwait : ∀ {w process n m}, (w, process) ∈ waitProcess → s.st = w → s.fbn = n → s.need = m →
      t.rx = s.rx.drop (t.fbn - s.fbn) ∧ ∃ c, t.diagCause = some c ∧ WaitExit w n m c t.fbn := by
    rintro w process n m hw hst rfl rfl
    obtain ⟨hrx, c, hc, hexit⟩ := pollStep_done hw hx ((exec_decRecv_wait hx hw hst).symm.trans hexec) hdone
    exact ⟨hrx, c, hc.trans (hcause c), hexit⟩
  cases hst : s.st <;> simp only [ReceiveInv, hst] at hinv
  case idle => exact absurd hx hinv
  case scan =>
    obtain ⟨-, hn, -⟩ := hinv
    cases (exec_decRecv_scan hx hst).symm.trans hexec
    obtain ⟨hrx, hfbn, hc⟩ := scanStep_done hx hdone
    rw [hrx, hfbn, Nat.sub_self]
    exact ⟨rfl, .noData, hc.trans (hcause _), fun _ => ⟨rfl, hn⟩, nofun, nofun, nofun, nofun⟩
  case waitHdr =>
    obtain ⟨-, hn, hneed, -⟩ := hinv
    obtain ⟨hrx, c, hc, hexit⟩ := hwait (process := processHeader) (by simp [waitProcess]) hst hn hneed
    refine ⟨hrx, c, hc, nofun, fun _ => ?_, nofun, nofun, nofun⟩
    simpa [WaitExit, wholeReadCauses] using hexit
  case waitLen =>
    obtain ⟨-, hn, hneed, -⟩ := hinv
    obtain ⟨hrx, c, hc, hexit⟩ := hwait (process := processLength) (by simp [waitProcess]) hst hn hneed
    refine ⟨hrx, c, hc, nofun, nofun, fun _ => ?_, nofun, nofun⟩
    simpa [WaitExit, wholeReadCauses] using hexit
  case waitBody =>
    obtain ⟨-, hn, hneed, -⟩ := hinv
    obtain ⟨hrx, c, hc, hexit⟩ := hwait (process := processBody) (by simp [waitProcess]) hst hn hneed
    have hwhole : 9 + (s.hLen.toNat + 6) = 15 + s.hLen.toNat := by omega
    refine ⟨hrx, c, hc, nofun, nofun, nofun, fun _ => ?_, nofun⟩
    simpa [WaitExit, wholeReadCauses, hwhole] using hexit
  case waitShort =>
    obtain ⟨-, hn, hneed, -⟩ := hinv
    obtain ⟨hrx, c, hc, hexit⟩ := hwait (process := processShort) (by simp [waitProcess]) hst hn hneed
    refine ⟨hrx, c, hc, nofun, nofun, nofun, nofun, fun _ => ?_⟩
    simpa [WaitExit, wholeReadCauses] using hexit
end

section
/-! SUPPORT. The scan under a supply of garbage without end: its step, and that the step keeps what made it possible
(70_reset_and_hazards.md R356, 42_decoder.md R230, R231). -/

namespace Sys2Proof.Machine

variable {s t u : State} {f : Supply}

theorem SameResults.trans (h : SameResults s t) (h' : SameResults t u) : SameResults s u := by
  unfold SameResults at *
  obtain ⟨hkind, hdev, hcol, hpayload, hpresent, heca, hcause⟩ := h
  rwa [hkind, hdev, hcol, hpayload, hpresent, heca, hcause] at h'

/-- A scan step on an open channel, with whole reads, drops a head that is not the sentinel (42_decoder.md R230). -/
theorem scanStep_dropsHead {b : Byte} {rest : List Byte} (ho : s.chanOpen = true) (hf : s.cfg.chanReadFull = true)
    (hrx : s.rx = b :: rest) (hb : b ≠ 0x21) : scanStep s = { s with rx := rest } := by
  have hread : chanRead 1 s = ([b], { s with rx := rest }) := by
    rw [chanRead_full 1 hf, chanAvail_open ho, hrx, List.length_cons, Nat.min_eq_left (Nat.le_add_left 1 _)]
    rfl
  rw [scanStep_drops (congrArg Prod.fst hread) hb, hread]

/-- Chunks repeated without end, none of them empty and none with the sentinel. -/
def GarbageSupply (f : Supply) : Prop :=
  ∃ chunk later, f = .cycle chunk later ∧ ∀ c ∈ chunk :: later, c ≠ [] ∧ (0x21 : Byte) ∉ c

/-- The circle turns and holds the same chunks. -/
theorem GarbageSupply.next (h : GarbageSupply f) : GarbageSupply (nextSupply f) := by
  obtain ⟨chunk, later, rfl, hgarbage⟩ := h
  cases later with
  | nil => exact ⟨chunk, [], rfl, hgarbage⟩
  | cons d ds =>
    refine ⟨d, ds ++ [chunk], rfl, fun c hc => hgarbage c ?_⟩
    simp only [List.mem_cons, List.mem_append, List.not_mem_nil, or_false] at hc ⊢
    tauto

theorem GarbageSupply.supplies_garbage (h : GarbageSupply s.supply) :
    suppliedBytes s ≠ [] ∧ (0x21 : Byte) ∉ suppliedBytes s := by
  obtain ⟨chunk, later, hsup, hgarbage⟩ := h
  rw [suppliedBytes, hsup]
  exact hgarbage chunk List.mem_cons_self

/-- A receive that scans an open channel, with whole reads, no sentinel in `RX`, and garbage without end to come. -/
structure GarbageScan (s : State) : Prop where
  executing : Executing .decRecv s
  scanning : s.st = .scan
  events : s.events = []
  chanOpen : s.chanOpen = true
  readFull : s.cfg.chanReadFull = true
  noSentinel : (0x21 : Byte) ∉ s.rx
  supply : GarbageSupply s.supply

/-- The step drops the first byte there is once the channel has supplied its chunk. -/
theorem GarbageScan.step_eq (h : GarbageScan s) : ∃ b rest, s.rx ++ suppliedBytes s = b :: rest ∧
    step s = .next { supplyNext s with rx := rest } := by
  obtain ⟨hsome, hclean⟩ := h.supply.supplies_garbage
  obtain ⟨b, rest, hrx⟩ := List.exists_cons_of_ne_nil (List.append_ne_nil_of_right_ne_nil s.rx hsome)
  have hb : b ≠ 0x21 := by
    rintro rfl
    exact (List.mem_append.mp (hrx ▸ List.mem_cons_self)).elim h.noSentinel hclean
  refine ⟨b, rest, hrx, ?_⟩
  have hu : (supplyNext s).rx = b :: rest := (if_pos h.chanOpen).trans hrx
  rw [step_executing h.executing (.inl h.events), exec_decRecv_scan (s := supplyNext s) h.executing h.scanning,
    scanStep_dropsHead (s := supplyNext s) h.chanOpen h.readFull hu hb]

/-- The step goes on, the receive still scans garbage, and no result is written. -/
theorem GarbageScan.step_next (h : GarbageScan s) : ∃ t, step s = .next t ∧ GarbageScan t ∧ SameResults s t := by
  obtain ⟨b, rest, hrx, hstep⟩ := h.step_eq
  obtain ⟨-, hclean⟩ := h.supply.supplies_garbage
  have hrest : (0x21 : Byte) ∉ rest := fun hmem =>
    (List.mem_append.mp (hrx ▸ List.mem_cons_of_mem b hmem)).elim h.noSentinel hclean
  exact ⟨_, hstep, ⟨h.executing, h.scanning, h.events, h.chanOpen, h.readFull, hrest, h.supply.next⟩,
    SameResults.refl s⟩

theorem GarbageScan.reaches (h : GarbageScan s) (n : Nat) : ∃ t, Reaches n s t ∧ GarbageScan t ∧ SameResults s t := by
  induction n generalizing s with
  | zero => exact ⟨s, rfl, h, SameResults.refl s⟩
  | succ n ih =>
    obtain ⟨u, hstep, hu, hsu⟩ := h.step_next
    obtain ⟨t, hrun, ht, hut⟩ := ih hu
    exact ⟨t, hrun.succ hstep, ht, hsu.trans hut⟩

end Sys2Proof.Machine

open Sys2Proof Sys2Proof.Machine

/-- Settles O49: each step of the scan drops a byte and finds garbage to come as before. -/
theorem endlessGarbageNeverEndsAReceive : Obligations.EndlessGarbageNeverEndsAReceive := by
  intro s chunk later hx hst he ho hf hrx hsup hgarbage n
  have h : GarbageScan s := ⟨hx, hst, he, ho, hf, hrx, chunk, later, hsup, hgarbage⟩
  obtain ⟨t, hrun, ht, hres⟩ := h.reaches n
  exact ⟨t, hrun, ht.executing, ht.scanning, hres⟩
end

section
/-! SUPPORT. The reset input, and what becomes of `RX` (70_reset_and_hazards.md R340, 20_memory.md R65). -/

namespace Sys2Proof.Machine

variable {s : State}

theorem step_reset {es : List Event} (he : s.events = .reset :: es) :
    step s = .next (resetBlock { s with events := es }) := by
  simp only [step, fetch, he, fetchEvent]

/-- The tape's next choice says what becomes of `RX`. -/
theorem resetBlock_rx_drawn {d : Nat} {ds : List Nat} (ht : s.tape = d :: ds) :
    (resetBlock s).rx = rxAfterDraw d s.rx := by
  rw [resetBlock, draw_tape ht]

end Sys2Proof.Machine

open Sys2Proof Sys2Proof.Machine

/-- Settles O57: the registers are those of `resetBlock`; what becomes of `RX` is the draw, which the tape's next choice
can fix either way. -/
theorem resetAbandonsTheCommand : Obligations.ResetAbandonsTheCommand := by
  intro s es he
  refine ⟨⟨_, step_reset he, rfl, rfl, rfl, rfl, rfl, rfl, rfl, rfl, rfl, rfl, rfl, rfl, rfl, rfl, rfl, rfl, rfl, rfl,
    rxAfterDraw_cases _ _, rfl, rfl, rfl, rfl, rfl⟩, fun keep => ?_⟩
  have hstep := step_reset (s := { s with tape := [(!keep).toNat] }) he
  exact ⟨_, _, hstep, (resetBlock_rx_drawn rfl).trans (by cases keep <;> rfl)⟩
end
